-- ==== Sys2Proof/Word.lean ====
section
/-! DEFINITION. The Word, the byte, and the two word arrays the spec names (00_scope.md rules R8, R10, R16). -/

namespace Sys2Proof

/-- A Word: an unsigned 32-bit value, bit 31 most significant (R10, R16). -/
abbrev Word := BitVec 32

/-- A byte, bits 7..0 (R10). -/
abbrev Byte := BitVec 8

/-- The eight Words of a hash state, index 0 first (R8 STATE, R15). -/
abbrev Hash := Vector Word 8

/-- The sixteen Words of a 512-bit block, word 0 first (R8 BLOCK, R16). -/
abbrev Block := Vector Word 16

end Sys2Proof
end

