-- ==== Sys2Proof/Config.lean ====
section
/-! DEFINITION. What the algorithm and the platform fix, and the one free value the spec leaves open
(00_scope.md rules R8 and R9; 92_eei_decisions.md section 2; 93_implementation_defined.md U7). -/

namespace Sys2Proof

/-- BLOCK in bytes: 512 bits = 64 bytes (R8). -/
abbrev Config.blockBytes : Nat := 64

/-- ROUNDS: the rounds of one block's compression (R8). -/
abbrev Config.rounds : Nat := 64

/-- A message of this many bytes or more is InputTooLarge: 2^61 (R8 MAXMSG, R106). -/
abbrev Config.tooLargeBytes : Nat := 2 ^ 61

/-- The register window is 4096 bytes wide (R9, R51). -/
abbrev Config.windowBytes : Nat := 4096

/-- DESIGN CHOICE (log 2). The value `State.reset` gives the OPEN parameter BASE, counted in pages of 4096 bytes so that
BASE mod 4096 = 0 holds by construction (R9, D2). BASE is a field of State, so a statement about every state holds for every
BASE. -/
def Config.resetBasePage : Nat := 0

/-- What the OPEN parameter RESET_SIGNALLING describes: polarity, synchronous or asynchronous assertion, least width (R252). -/
structure ResetSignalling where
  activeHigh : Bool
  synchronous : Bool
  minimumWidth : Nat
  deriving DecidableEq, Repr, Inhabited

/-- The OPEN parameter RESET_SIGNALLING. "No rule depends on it" (R252), so nothing in the model reads it. -/
opaque Config.resetSignalling : ResetSignalling

/-- FREE VALUE (log 4). The Word a host read of H[i] returns while BUSY = 1: any 32-bit value, drawn anew for each read, under
no law (R229, U7). The argument is the number of draws already made; no proof can learn a value of it. -/
opaque Config.freeHRead : Nat → Word

end Sys2Proof
end

