-- ==== Sys2Proof/Syntax.lean ====
section
/-! DEFINITION. The operations of the engine: one constructor per row of spec/opcode_table.json (30_encoding.md rules R70 to R72
and R77). The eight command rows (format CMDW) are host writes of a legal command word to CMD; the eighteen register-access rows
(format BUS) are 32-bit host accesses to a mapped, aligned offset. -/

namespace Sys2Proof

/-- An operation. A write carries the Word the host drives; an index is the register's number in its array. -/
inductive Instr where
  /-- NOP, command word 0x00000000 (R183). -/
  | nop
  /-- INIT, command word 0x00000001 (R184). -/
  | init
  /-- APPEND.1, command word 0x00000012 (R188). -/
  | append1
  /-- APPEND.2, command word 0x00000022 (R188). -/
  | append2
  /-- APPEND.3, command word 0x00000032 (R188). -/
  | append3
  /-- APPEND.4, command word 0x00000042 (R188). -/
  | append4
  /-- FINAL, command word 0x00000003 (R189). -/
  | final
  /-- COMPRESS, command word 0x00000004 (R190). -/
  | compress
  /-- RD_CMD: reads 0 (R37, R200). -/
  | rdCmd
  /-- WR_CMD: a write to CMD (R180). The decoder uses it for the words that are no legal command; its meaning takes any word. -/
  | wrCmd (v : Word)
  /-- RD_STATUS (R36, R200). -/
  | rdStatus
  /-- WR_STATUS: ignored (R56). -/
  | wrStatus (v : Word)
  /-- RD_DATA_IN (R25, R200). -/
  | rdDataIn
  /-- WR_DATA_IN (R203). -/
  | wrDataIn (v : Word)
  /-- RD_MSGLEN_LO (R38, R200). -/
  | rdMsglenLo
  /-- WR_MSGLEN_LO: ignored (R56). -/
  | wrMsglenLo (v : Word)
  /-- RD_MSGLEN_HI (R38, R200). -/
  | rdMsglenHi
  /-- WR_MSGLEN_HI: ignored (R56). -/
  | wrMsglenHi (v : Word)
  /-- RD_H[i] (R200, R229). -/
  | rdH (i : Fin 8)
  /-- WR_H[i] (R201). -/
  | wrH (i : Fin 8) (v : Word)
  /-- RD_M[i] (R200). -/
  | rdM (i : Fin 16)
  /-- WR_M[i] (R202). -/
  | wrM (i : Fin 16) (v : Word)
  /-- RD_DIGEST[i] (R170). -/
  | rdDigest (i : Fin 8)
  /-- WR_DIGEST[i]: ignored (R56). -/
  | wrDigest (i : Fin 8) (v : Word)
  /-- RD_HEX[k] (R172). -/
  | rdHex (k : Fin 16)
  /-- WR_HEX[k]: ignored (R56). -/
  | wrHex (k : Fin 16) (v : Word)
  deriving DecidableEq, Repr

end Sys2Proof
end

