-- ==== Sys2Proof/WellFormed.lean ====
section
/-! DEFINITION. Which operations have words of their own (30_encoding.md rule R72). -/

namespace Sys2Proof

/-- The legal command words: exactly these eight (R72). -/
def legalCommandWords : List Word :=
  [0x00000000, 0x00000001, 0x00000012, 0x00000022, 0x00000032, 0x00000042, 0x00000003, 0x00000004]

/-- An operation is well formed when an access decodes to it. The one check: `wrCmd` stands for a CMD write that is no command,
because a CMD write of a legal command word IS that command (R79). Register indexes are in range by their type. -/
def Instr.wellFormed : Instr → Bool
  | .nop => true
  | .init => true
  | .append1 => true
  | .append2 => true
  | .append3 => true
  | .append4 => true
  | .final => true
  | .compress => true
  | .rdCmd => true
  | .wrCmd v => !legalCommandWords.contains v
  | .rdStatus => true
  | .wrStatus _ => true
  | .rdDataIn => true
  | .wrDataIn _ => true
  | .rdMsglenLo => true
  | .wrMsglenLo _ => true
  | .rdMsglenHi => true
  | .wrMsglenHi _ => true
  | .rdH _ => true
  | .wrH _ _ => true
  | .rdM _ => true
  | .wrM _ _ => true
  | .rdDigest _ => true
  | .wrDigest _ _ => true
  | .rdHex _ => true
  | .wrHex _ _ => true

end Sys2Proof
end

