-- ==== Sys2Proof/Decode.lean ====
section
/-! DEFINITION. The two decoders of 30_encoding.md: the command word (R70 to R76) and the register access (R77), total on every
word and on every host access, rejecting by name; and the encoder, written from R41 and R72. -/

namespace Sys2Proof

/-! ## The command word -/

/-- NB of an APPEND, 1 to 4 (R73). -/
inductive ByteCount where
  | one | two | three | four
  deriving DecidableEq, Repr

/-- The number of bytes an APPEND takes (R73: not scaled, not sign-extended). -/
def ByteCount.toNat : ByteCount → Nat
  | .one => 1
  | .two => 2
  | .three => 3
  | .four => 4

/-- The commands of R71. -/
inductive Command where
  | nop
  | init
  | append (n : ByteCount)
  | final
  | compress
  deriving DecidableEq, Repr

/-- Why a word is no command (R75). -/
inductive CommandReject where
  /-- RSV ≠ 0. -/
  | reservedBits
  /-- OPC is one of 5..15. -/
  | reservedOpcode
  /-- NB is not what this OPC requires. -/
  | byteCount
  deriving DecidableEq, Repr

/-- OPC, bits 3:0 (R70). -/
def opcField (cmd : Word) : BitVec 4 := cmd.extractLsb' 0 4

/-- NB, bits 6:4 (R70). -/
def nbField (cmd : Word) : BitVec 3 := cmd.extractLsb' 4 3

/-- RSV, bits 31:7 (R70). -/
def rsvField (cmd : Word) : BitVec 25 := cmd.extractLsb' 7 25

/-- A command that takes no byte count requires NB = 0 (R73). -/
def withoutByteCount (nb : BitVec 3) (c : Command) : Except CommandReject Command :=
  if nb = 0 then .ok c else .error .byteCount

/-- APPEND requires 1 ≤ NB ≤ 4 (R73). -/
def appendOf (nb : BitVec 3) : Except CommandReject Command :=
  if nb = 1 then .ok (.append .one)
  else if nb = 2 then .ok (.append .two)
  else if nb = 3 then .ok (.append .three)
  else if nb = 4 then .ok (.append .four)
  else .error .byteCount

/-- `Decode(cmd)` of R76. -/
def decodeCommand (cmd : Word) : Except CommandReject Command :=
  if rsvField cmd ≠ 0 then .error .reservedBits
  else if opcField cmd = 0 then withoutByteCount (nbField cmd) .nop
  else if opcField cmd = 1 then withoutByteCount (nbField cmd) .init
  else if opcField cmd = 2 then appendOf (nbField cmd)
  else if opcField cmd = 3 then withoutByteCount (nbField cmd) .final
  else if opcField cmd = 4 then withoutByteCount (nbField cmd) .compress
  else .error .reservedOpcode

/-- The operation a command is. -/
def Command.instr : Command → Instr
  | .nop => .nop
  | .init => .init
  | .append .one => .append1
  | .append .two => .append2
  | .append .three => .append3
  | .append .four => .append4
  | .final => .final
  | .compress => .compress

/-! ## The register access -/

/-- The registers of the window (R41). -/
inductive Reg where
  | cmd
  | status
  | dataIn
  | msglenLo
  | msglenHi
  | h (i : Fin 8)
  | m (i : Fin 16)
  | digest (i : Fin 8)
  | hex (k : Fin 16)
  deriving DecidableEq, Repr

/-- Whether a host access reads or writes (R77). -/
inductive Direction where
  | read | write
  deriving DecidableEq, Repr

/-- One host bus access as the host drives it (R13, R55): direction, bus address, width in bits, and the Word of a write (the
data of a read is not looked at). -/
structure HostAccess where
  dir : Direction
  addr : Nat
  width : Nat
  data : Word
  deriving DecidableEq, Repr

/-- Why a host access raises BusError (R55). -/
inductive BusErrorReason where
  /-- offset[1:0] ≠ 0. -/
  | misaligned
  /-- The width is not 32 bits. -/
  | width
  /-- No register at the offset. -/
  | unmapped
  deriving DecidableEq, Repr

/-- Why an access is no operation of this engine. -/
inductive AccessReject where
  /-- The bus address lies outside BASE .. BASE + 0xFFF (R51): the access goes to something else. -/
  | outsideWindow
  /-- BusError (R55). -/
  | busError (r : BusErrorReason)
  deriving DecidableEq, Repr

/-- BASE, a multiple of 4096 (R9). -/
def baseAddress (basePage : Nat) : Nat := Config.windowBytes * basePage

/-- The bus address `BASE + off` of a window offset (R200). -/
def busAddress (basePage : Nat) (off : BitVec 12) : Nat := baseAddress basePage + off.toNat

/-- The window offset of a bus address, if the window holds it (R51). -/
def windowOffset (basePage addr : Nat) : Option (BitVec 12) :=
  if baseAddress basePage ≤ addr ∧ addr < baseAddress basePage + Config.windowBytes then
    some (BitVec.ofNat 12 (addr - baseAddress basePage))
  else none

/-- A match and mask pair of R77 over offset[11:0]. -/
def offsetMatches (off mtch mask : BitVec 12) : Bool := off &&& mask == mtch

/-- The register at an offset, by the match and mask pairs of R77; none where the offset is unmapped. -/
def decodeReg (off : BitVec 12) : Option Reg :=
  if offsetMatches off 0x000 0xFFF then some .cmd
  else if offsetMatches off 0x004 0xFFF then some .status
  else if offsetMatches off 0x008 0xFFF then some .dataIn
  else if offsetMatches off 0x00C 0xFFF then some .msglenLo
  else if offsetMatches off 0x010 0xFFF then some .msglenHi
  else if offsetMatches off 0x040 0xFE3 then some (.h (off.extractLsb' 2 3).toFin)
  else if offsetMatches off 0x080 0xFC3 then some (.m (off.extractLsb' 2 4).toFin)
  else if offsetMatches off 0x100 0xFE3 then some (.digest (off.extractLsb' 2 3).toFin)
  else if offsetMatches off 0x140 0xFC3 then some (.hex (off.extractLsb' 2 4).toFin)
  else none

/-- The operation of a read of a register (R200). -/
def readInstr : Reg → Instr
  | .cmd => .rdCmd
  | .status => .rdStatus
  | .dataIn => .rdDataIn
  | .msglenLo => .rdMsglenLo
  | .msglenHi => .rdMsglenHi
  | .h i => .rdH i
  | .m i => .rdM i
  | .digest i => .rdDigest i
  | .hex k => .rdHex k

/-- The operation of a write of CMD: the command the word is (R79), or a CMD write of a word that is none. -/
def writeCmdInstr (v : Word) : Instr :=
  match decodeCommand v with
  | .ok c => c.instr
  | .error _ => .wrCmd v

/-- The operation of a write of a register. -/
def writeInstr (v : Word) : Reg → Instr
  | .cmd => writeCmdInstr v
  | .status => .wrStatus v
  | .dataIn => .wrDataIn v
  | .msglenLo => .wrMsglenLo v
  | .msglenHi => .wrMsglenHi v
  | .h i => .wrH i v
  | .m i => .wrM i v
  | .digest i => .wrDigest i v
  | .hex k => .wrHex k v

/-- The access decode inside the window: alignment, width, then the register (R54, R55, R77). Any failing check is the same
BusError; the reason is the model's own name for it (log 6). -/
def decodeAt (off : BitVec 12) (a : HostAccess) : Except BusErrorReason Instr :=
  if off.extractLsb' 0 2 ≠ 0 then .error .misaligned
  else if a.width ≠ 32 then .error .width
  else match decodeReg off with
    | none => .error .unmapped
    | some r =>
      match a.dir with
      | .read => .ok (readInstr r)
      | .write => .ok (writeInstr a.data r)

/-- The decoder of a host access to an engine whose window is at BASE. -/
def decode (basePage : Nat) (a : HostAccess) : Except AccessReject Instr :=
  match windowOffset basePage a.addr with
  | none => .error .outsideWindow
  | some off =>
    match decodeAt off a with
    | .error r => .error (.busError r)
    | .ok i => .ok i

/-! ## The encoder -/

/-- The command words of R72. -/
def Command.word : Command → Word
  | .nop => 0x00000000
  | .init => 0x00000001
  | .append .one => 0x00000012
  | .append .two => 0x00000022
  | .append .three => 0x00000032
  | .append .four => 0x00000042
  | .final => 0x00000003
  | .compress => 0x00000004

/-- The offsets of the register map (R41). -/
def Reg.offset : Reg → BitVec 12
  | .cmd => 0x000
  | .status => 0x004
  | .dataIn => 0x008
  | .msglenLo => 0x00C
  | .msglenHi => 0x010
  | .h i => BitVec.ofNat 12 (0x040 + 4 * i.val)
  | .m i => BitVec.ofNat 12 (0x080 + 4 * i.val)
  | .digest i => BitVec.ofNat 12 (0x100 + 4 * i.val)
  | .hex k => BitVec.ofNat 12 (0x140 + 4 * k.val)

/-- `MemRead(off, 4)` (R13). -/
def readAccess (basePage : Nat) (r : Reg) : HostAccess :=
  { dir := .read, addr := busAddress basePage r.offset, width := 32, data := 0 }

/-- `MemWrite(off, 4, v)` (R13). -/
def writeAccess (basePage : Nat) (r : Reg) (v : Word) : HostAccess :=
  { dir := .write, addr := busAddress basePage r.offset, width := 32, data := v }

/-- A command is the write of its word to CMD (R79). -/
def commandAccess (basePage : Nat) (c : Command) : HostAccess := writeAccess basePage .cmd c.word

/-- The host access that is an operation. -/
def encode (basePage : Nat) : Instr → HostAccess
  | .nop => commandAccess basePage .nop
  | .init => commandAccess basePage .init
  | .append1 => commandAccess basePage (.append .one)
  | .append2 => commandAccess basePage (.append .two)
  | .append3 => commandAccess basePage (.append .three)
  | .append4 => commandAccess basePage (.append .four)
  | .final => commandAccess basePage .final
  | .compress => commandAccess basePage .compress
  | .rdCmd => readAccess basePage .cmd
  | .wrCmd v => writeAccess basePage .cmd v
  | .rdStatus => readAccess basePage .status
  | .wrStatus v => writeAccess basePage .status v
  | .rdDataIn => readAccess basePage .dataIn
  | .wrDataIn v => writeAccess basePage .dataIn v
  | .rdMsglenLo => readAccess basePage .msglenLo
  | .wrMsglenLo v => writeAccess basePage .msglenLo v
  | .rdMsglenHi => readAccess basePage .msglenHi
  | .wrMsglenHi v => writeAccess basePage .msglenHi v
  | .rdH i => readAccess basePage (.h i)
  | .wrH i v => writeAccess basePage (.h i) v
  | .rdM i => readAccess basePage (.m i)
  | .wrM i v => writeAccess basePage (.m i) v
  | .rdDigest i => readAccess basePage (.digest i)
  | .wrDigest i v => writeAccess basePage (.digest i) v
  | .rdHex k => readAccess basePage (.hex k)
  | .wrHex k v => writeAccess basePage (.hex k) v

/-! ## The words of spec/opcode_table.json -/

/-- DESIGN CHOICE (log 7). The width in bits that a table word's spare bits 15:13 stand for: 0 is the 32-bit access every row of
the table has; the other codes are widths the engine answers with BusError. -/
def tableWidth (code : Nat) : Nat := if code = 0 then 32 else 4 * code

/-- DESIGN CHOICE (log 7). The host access that a word of spec/opcode_table.json stands for. A row of format CMDW has 32 bits:
the command word, written to CMD. A row of format BUS has 12 bits, two bytes: the offset in bits 11:0; the table gives its
direction no bit, so bit 12 (spare) says it, 0 a read and 1 a write; bits 15:13 (spare) are the width code; the write data lies
above, from bit 16 on. -/
def tableAccess (basePage nbits w : Nat) : HostAccess :=
  if 16 < nbits then writeAccess basePage .cmd (BitVec.ofNat 32 w)
  else
    { dir := if w.testBit 12 then .write else .read
      addr := busAddress basePage (BitVec.ofNat 12 w)
      width := tableWidth ((w / 2 ^ 13) % 8)
      data := BitVec.ofNat 32 (w / 2 ^ 16) }

/-- The operation the decoder reads from a table word. -/
def decodeTableWord (nbits w : Nat) : Option Instr :=
  match decode 0 (tableAccess 0 nbits w) with
  | .ok i => some i
  | .error _ => none

end Sys2Proof
end

