-- ==== Sys2Proof/Machine/State.lean ====
section
/-! DEFINITION. The state of the engine (10_state.md), its reset (70_reset_and_hazards.md rule R250), and the ways a step can
stop. State is plain data and holds every element the spec gives the machine, and the model's own fields: the bus response, the
window's base, the events still to come, and the number of free draws made. -/

namespace Sys2Proof.Machine

/-- PHASE (R27). Encoding 3 is never produced, so the type has no constructor for it (U15). -/
inductive Phase where
  | absorb
  | finalized
  | error
  deriving DecidableEq, Repr

/-- The engine errors of R220. Codes 5 to 15 are never produced, so the type has no constructor for them (U15). -/
inductive EngineError where
  | illegalCmd
  | busyWrite
  | sequence
  | inputTooLarge
  deriving DecidableEq, Repr

/-- The working variables a..h of the hash mixer (R21, R15). -/
structure Working where
  a : Word
  b : Word
  c : Word
  d : Word
  e : Word
  f : Word
  g : Word
  h : Word
  deriving DecidableEq, Repr

/-- What the host has received for its last access (R13, R55, R56, R225). The spec gives the bus no signals; this is the
model's own account of the response (log 5). -/
inductive BusResponse where
  /-- No access has been answered since reset. -/
  | quiet
  /-- OKAY for a write, accepted, ignored or recorded as an engine error. -/
  | okay
  /-- OKAY for a read, with the Word read. -/
  | data (v : Word)
  /-- The error response of BusError; no read data (U9). -/
  | busError
  deriving DecidableEq, Repr

/-- One event of the one sequence in which host accesses, engine steps and resets take effect (R57, R60, R252). -/
inductive Event where
  /-- The host issues an access. -/
  | access (a : HostAccess)
  /-- The engine's turn: one engine step if a job is pending (R150, R151), otherwise nothing (R152). -/
  | engine
  /-- A reset (R250 to R252). -/
  | reset
  /-- The host issues an access while reset is asserted, which it must not do (R252). -/
  | accessDuringReset (a : HostAccess)
  deriving DecidableEq, Repr

/-- The ways the machine faults. -/
inductive Fault where
  /-- BusError (R55): raised by `hostAccess` for an access that fails the bus checks. Safe: it stops the access, not the machine;
  `step` gives the host the error response and goes on with no engine state changed. -/
  | busError (r : BusErrorReason)
  /-- MalformedInput (R113, R222, U2): raised by `parse` for a byte sequence whose length is not a multiple of 64. Safe: fatal,
  yields no value, and no operation of the engine reaches it. -/
  | malformedInput
  deriving DecidableEq, Repr

/-- The ways the machine refuses to give an event a meaning. -/
inductive Refusal where
  /-- An instruction with no meaning yet, by its mnemonic. Safe. No arm of `exec` answers it. -/
  | notModelled (mnemonic : String)
  /-- A host access while reset is asserted: "Such an access has no meaning in this spec, and a model refuses it" (R252). Raised
  by `nextEvent`. Safe. -/
  | accessDuringReset
  /-- A host access to a bus address outside this engine's window (R51): it goes to a unit the spec does not describe. Raised by
  `hostAccess`. Safe. -/
  | outsideWindow
  deriving DecidableEq, Repr

/-- The state. -/
structure State where
  /-- Running hash state H[0..7] (R20). -/
  H : Hash
  /-- Working variables a..h (R21). -/
  working : Working
  /-- The message schedule W, as the reference hardware's 16-Word sliding window S[0..15] (R22, R143). -/
  window : Vector Word 16
  /-- Block register file M[0..15] (R24). -/
  M : Block
  /-- DATA_IN (R25). -/
  dataIn : Word
  /-- Padding buffer BUF (R26). -/
  buf : List Byte
  /-- PHASE (R27). -/
  phase : Phase
  /-- MSGLEN, a 61-bit byte count (R28). -/
  msglen : BitVec 61
  /-- Job queue Q, the block in progress first (R29). -/
  Q : List Block
  /-- SETDV (R30). -/
  setdv : Bool
  /-- Round counter t, 0..64 (R31). -/
  t : Fin 65
  /-- DIGEST_VALID, DV (R34). -/
  dv : Bool
  /-- ERR_ILLEGAL (R35). -/
  errIllegal : Bool
  /-- ERR_BUSY (R35). -/
  errBusy : Bool
  /-- ERR_SEQ (R35). -/
  errSeq : Bool
  /-- ERR_TOO_LARGE (R35). -/
  errTooLarge : Bool
  /-- CAUSE: the first error since INIT or reset; none is code 0 (R35, R220). -/
  cause : Option EngineError
  /-- The model's own (log 5): the response to the host's last access. -/
  response : BusResponse
  /-- The OPEN parameter BASE in pages of 4096 bytes (R9); no step changes it (log 2). -/
  basePage : Nat
  /-- The model's own (log 1): the events still to come, the next one first. -/
  pending : List Event
  /-- The model's own (log 4): how many free values have been drawn. -/
  freeDraws : Nat
  deriving DecidableEq, Repr

/-- The working variables at reset: unspecified by the spec and never observable (R21, U8). DESIGN CHOICE (log 3): zero. -/
def Working.zero : Working := { a := 0, b := 0, c := 0, d := 0, e := 0, f := 0, g := 0, h := 0 }

/-- The machine right after reset (R250). `working`, `window` and `t` are unspecified there and never observable; zero is a DESIGN
CHOICE (log 3). `response`, `basePage`, `pending` and `freeDraws` are the model's own (logs 1, 2, 4, 5). -/
def State.reset : State where
  H := initialHash
  working := Working.zero
  window := Vector.replicate 16 0
  M := Vector.replicate 16 0
  dataIn := 0
  buf := []
  phase := .absorb
  msglen := 0
  Q := []
  setdv := false
  t := 0
  dv := false
  errIllegal := false
  errBusy := false
  errSeq := false
  errTooLarge := false
  cause := none
  response := .quiet
  basePage := Config.resetBasePage
  pending := []
  freeDraws := 0

end Sys2Proof.Machine
end

