-- ==== Sys2Proof/Machine/WordFunctions.lean ====
section
/-! DEFINITION. The combinational primitives of the schedule expander and the hash mixer (41_functions.md rules R120 to R129). Every
sum is addition of Words, which wraps at 2^32 with no flag (R122); BitVec addition is that. -/

namespace Sys2Proof.Machine

/-- `ROTR(x, n)` (R120). The rotation amount is a constant with 1 ≤ n ≤ 31; 0 and 32 are refused by the argument's type (U16). -/
def rotr (x : Word) (n : Nat) (_inRange : 1 ≤ n ∧ n ≤ 31 := by decide) : Word := (x >>> n) ||| (x <<< (32 - n))

/-- `SHR(x, n)` (R121). -/
def shr (x : Word) (n : Nat) : Word := x >>> n

/-- σ0 (R124). -/
def smallSigma0 (x : Word) : Word := rotr x 7 ^^^ rotr x 18 ^^^ shr x 3

/-- σ1 (R125). -/
def smallSigma1 (x : Word) : Word := rotr x 17 ^^^ rotr x 19 ^^^ shr x 10

/-- Σ0 (R126). -/
def bigSigma0 (x : Word) : Word := rotr x 2 ^^^ rotr x 13 ^^^ rotr x 22

/-- Σ1 (R127). -/
def bigSigma1 (x : Word) : Word := rotr x 6 ^^^ rotr x 11 ^^^ rotr x 25

/-- Ch (R128). -/
def ch (x y z : Word) : Word := (x &&& y) ^^^ (~~~x &&& z)

/-- Maj (R129). -/
def maj (x y z : Word) : Word := (x &&& y) ^^^ (x &&& z) ^^^ (y &&& z)

end Sys2Proof.Machine
end

