-- ==== Sys2Proof/Machine/Mixer.lean ====
section
/-! DEFINITION. The schedule window and the hash mixer on their own data (42_compression.md rules R141 to R147). -/

namespace Sys2Proof.Machine

/-- The working variables seeded from the running state: a..h from H[0..7] (R141). -/
def seedWorking (H : Hash) : Working :=
  { a := H[0], b := H[1], c := H[2], d := H[3], e := H[4], f := H[5], g := H[6], h := H[7] }

/-- T1 of a round, from K[t] and W[t] (R144). -/
def temp1 (v : Working) (k w : Word) : Word := v.h + bigSigma1 v.e + ch v.e v.f v.g + k + w

/-- T2 of a round (R145). -/
def temp2 (v : Working) : Word := bigSigma0 v.a + maj v.a v.b v.c

/-- `Round(t)` on the working variables, every right-hand side read before the round (R146). -/
def mixRound (v : Working) (k w : Word) : Working :=
  { a := temp1 v k w + temp2 v
    b := v.a
    c := v.b
    d := v.c
    e := v.d + temp1 v k w
    f := v.e
    g := v.f
    h := v.g }

/-- The Word that enters the window: W[t+16] (R143). -/
def windowNext (S : Vector Word 16) : Word := S[0] + smallSigma0 S[1] + S[9] + smallSigma1 S[14]

/-- `WindowStep()`: S[0..14] ← S[1..15], S[15] ← the next Word (R143). -/
def windowStep (S : Vector Word 16) : Vector Word 16 :=
  #v[S[1], S[2], S[3], S[4], S[5], S[6], S[7], S[8], S[9], S[10], S[11], S[12], S[13], S[14], S[15], windowNext S]

/-- `AddBack()`: the elementwise sum of the running state and the working variables, a→0 .. h→7 (R147). -/
def addBack (H : Hash) (v : Working) : Hash :=
  #v[H[0] + v.a, H[1] + v.b, H[2] + v.c, H[3] + v.d, H[4] + v.e, H[5] + v.f, H[6] + v.g, H[7] + v.h]

end Sys2Proof.Machine
end

