-- ==== Sys2Proof/Machine/Flags.lean ====
section
/-! DEFINITION. The flags: STATUS and what it is read from (10_state.md rules R33 to R36 and R42), and the codes of PHASE and CAUSE
(R27; 60_exceptions.md rule R220). -/

namespace Sys2Proof.Machine

/-- `BUSY = (Q ≠ [])` (R33). -/
def State.busy (s : State) : Bool := !s.Q.isEmpty

/-- The encoding of PHASE (R27). -/
def Phase.code : Phase → Word
  | .absorb => 0
  | .finalized => 1
  | .error => 2

/-- The code of an error (R220). -/
def EngineError.code : EngineError → Word
  | .illegalCmd => 1
  | .busyWrite => 2
  | .sequence => 3
  | .inputTooLarge => 4

/-- The code in CAUSE; 0 is no error (R220). -/
def causeCode : Option EngineError → Word
  | none => 0
  | some c => c.code

/-- A flag as a Word. -/
def flagWord (b : Bool) : Word := if b then 1 else 0

/-- The Word STATUS reads (R36, R200). -/
def statusWord (s : State) : Word :=
  flagWord s.busy ||| flagWord s.dv <<< 1 ||| s.phase.code <<< 2 ||| flagWord s.errIllegal <<< 4
    ||| flagWord s.errBusy <<< 5 ||| flagWord s.errSeq <<< 6 ||| flagWord s.errTooLarge <<< 7 ||| causeCode s.cause <<< 8

/-- The sticky flag of an error is set (R220, R224). -/
def State.setErrorFlag (s : State) : EngineError → State
  | .illegalCmd => { s with errIllegal := true }
  | .busyWrite => { s with errBusy := true }
  | .sequence => { s with errSeq := true }
  | .inputTooLarge => { s with errTooLarge := true }

end Sys2Proof.Machine
end

