-- ==== Sys2Proof/Machine/Bytes.lean ====
section
/-! DEFINITION. Byte order: the data path is big-endian at every byte-to-word boundary (00_scope.md rule R12; 20_memory.md rules
R52 and R53). -/

namespace Sys2Proof.Machine

/-- `BE32(b0,b1,b2,b3)`: the big-endian Word of four bytes (R12). -/
def be32 (b0 b1 b2 b3 : Byte) : Word := b0 ++ b1 ++ b2 ++ b3

/-- Byte j of a Word, most significant first: bits [31−8j : 24−8j], for j = 0..3 (R12, R53). -/
def wordByte (w : Word) (j : Nat) : Byte := w.extractLsb' (24 - 8 * j) 8

/-- `bytesBE32(w)` (R12). -/
def bytesBE32 (w : Word) : List Byte := [wordByte w 0, wordByte w 1, wordByte w 2, wordByte w 3]

/-- `BE64(v)`: the 8-byte big-endian encoding of v < 2^64 (R12). -/
def be64 (v : Nat) : List Byte :=
  [56, 48, 40, 32, 24, 16, 8, 0].map fun shift => (BitVec.ofNat 64 v).extractLsb' shift 8

end Sys2Proof.Machine
end

