-- ==== Sys2Proof/Machine/Formatter.lean ====
section
/-! DEFINITION. The digest formatter (43_digest.md rules R161 to R163, R170 and R172). -/

namespace Sys2Proof.Machine

/-- `hexdigit(v)`: the ASCII code of one lowercase hex digit (R163). -/
def hexdigit (v : BitVec 4) : Byte :=
  if v.toNat < 10 then 0x30 + v.setWidth 8 else 0x61 + (v.setWidth 8 - 10)

/-- `Serialize(S)`: the 32-byte digest (R161). -/
def serialize (S : Hash) : List Byte := S.toList.flatMap bytesBE32

/-- `Hex(D)`: two characters a byte, high nibble first (R162). -/
def hexText (D : List Byte) : List Byte := D.flatMap fun b => [hexdigit (b.extractLsb' 4 4), hexdigit (b.extractLsb' 0 4)]

/-- `ReadDIGEST(i)` (R170). -/
def readDigest (s : State) (i : Fin 8) : Word := if s.dv then s.H[i] else 0

/-- The halfword of H[k div 2] that HEX[k] shows (R172). -/
def hexHalf (H : Hash) (k : Fin 16) : BitVec 16 :=
  if k.val % 2 = 0 then (H[k.val / 2]).extractLsb' 16 16 else (H[k.val / 2]).extractLsb' 0 16

/-- The four characters of a halfword, the first in bits 31:24 (R172). -/
def hexWord (hw : BitVec 16) : Word :=
  be32 (hexdigit (hw.extractLsb' 12 4)) (hexdigit (hw.extractLsb' 8 4)) (hexdigit (hw.extractLsb' 4 4)) (hexdigit (hw.extractLsb' 0 4))

/-- `ReadHEX(k)` (R172). -/
def readHex (s : State) (k : Fin 16) : Word := if s.dv then hexWord (hexHalf s.H k) else 0

end Sys2Proof.Machine
end

