-- ==== Sys2Proof/Machine/Operands.lean ====
section
/-! DEFINITION. The operands: the bytes of an APPEND (30_encoding.md rules R73 and R74; 44_commands.md rule R186) and what each register
reads (44_commands.md rule R200). -/

namespace Sys2Proof.Machine

/-- The n bytes b0 .. b(n−1) of an APPEND.n, bj = DATA_IN[31−8j : 24−8j]; the bits below the last byte are ignored (R74, R186). -/
def appendBytes (n : ByteCount) (dataIn : Word) : List Byte := (List.range n.toNat).map (wordByte dataIn)

/-- MSGLEN[31:0] (R38). -/
def msglenLo (n : BitVec 61) : Word := n.extractLsb' 0 32

/-- zext_32(MSGLEN[60:32]) (R38). -/
def msglenHi (n : BitVec 61) : Word := (n.extractLsb' 32 29).setWidth 32

/-- `ReadReg(off)` of R200. While BUSY = 1 a read of H[i] is a free value (R229, log 4). -/
def readReg (s : State) : Reg → Word
  | .cmd => 0
  | .status => statusWord s
  | .dataIn => s.dataIn
  | .msglenLo => msglenLo s.msglen
  | .msglenHi => msglenHi s.msglen
  | .h i => if s.busy then Config.freeHRead s.freeDraws else s.H[i]
  | .m i => s.M[i]
  | .digest i => readDigest s i
  | .hex k => readHex s k

end Sys2Proof.Machine
end

