-- ==== Sys2Proof/Machine/Padding.lean ====
section
/-! DEFINITION. The padding function and the block parser (40_padding.md rules R100 to R113), on byte sequences. -/

namespace Sys2Proof.Machine

/-- The number of zero bytes z = (55 − len) mod 64 (R101). -/
def padZeros (len : Nat) : Nat := ((55 - (len : Int)) % 64).toNat

/-- What padding appends: 0x80, the zeros, and the 64-bit big-endian bit length of the whole message (R100, R105). `tail` is the
length of what it is appended to, `total` the message's length in bytes. -/
def padSuffix (tail total : Nat) : List Byte := 0x80 :: (List.replicate (padZeros tail) 0 ++ be64 (8 * total))

/-- The errors of the source's core (R4, R100, R106, R111, R113). -/
inductive CoreError where
  | inputTooLarge
  | malformedInput
  deriving DecidableEq, Repr

/-- `pad(m)`; InputTooLarge for 2^61 bytes or more (R100, R106). -/
def pad (m : List Byte) : Except CoreError (List Byte) :=
  if Config.tooLargeBytes ≤ m.length then .error .inputTooLarge else .ok (m ++ padSuffix m.length m.length)

/-- Word i of a 64-byte chunk (R112). -/
def chunkWord (chunk : List Byte) (i : Nat) : Word :=
  be32 (chunk.getD (4 * i) 0) (chunk.getD (4 * i + 1) 0) (chunk.getD (4 * i + 2) 0) (chunk.getD (4 * i + 3) 0)

/-- `Parse(chunk)` of one 64-byte chunk (R112). -/
def parseChunk (chunk : List Byte) : Block := Vector.ofFn fun i => chunkWord chunk i.val

/-- Chunk j of a byte sequence: bytes 64j .. 64j+63 (R111). -/
def chunkAt (p : List Byte) (j : Nat) : List Byte := (p.drop (Config.blockBytes * j)).take Config.blockBytes

/-- `parse(p)`; MalformedInput where the length is no multiple of 64 (R111, R113). -/
def parse (p : List Byte) : Except CoreError (List Block) :=
  if p.length % Config.blockBytes ≠ 0 then .error .malformedInput
  else .ok ((List.range (p.length / Config.blockBytes)).map fun j => parseChunk (chunkAt p j))

/-- `PadTail()`'s byte string T, from BUF and MSGLEN (R110). -/
def padTail (buf : List Byte) (msglen : BitVec 61) : List Byte := buf ++ padSuffix buf.length msglen.toNat

end Sys2Proof.Machine
end

