-- ==== Sys2Proof/Machine/Ops.lean ====
section
/-! DEFINITION. The named operations the meanings share: the bus response, recording an engine error (60_exceptions.md rule R224) and
clearing the errors (R231), the busy check (R228), register writes (44_commands.md rules R201 to R203), the padding unit
(40_padding.md rules R107 and R110), and the start of a job (42_compression.md rule R141). -/

namespace Sys2Proof.Machine

/-- One step's answer. -/
abbrev Answer := Host.Outcome State Fault Refusal

/-! ## The bus response -/

/-- The host receives a response. -/
def State.respond (s : State) (r : BusResponse) : State := { s with response := r }

/-- An accepted, ignored or refused write gets an OKAY response (R56, R225). -/
def State.acknowledge (s : State) : State := s.respond .okay

/-- A read gets the register's Word; nothing else changes (R58). -/
def readAnswer (r : Reg) (s : State) : Answer := .next (s.respond (.data (readReg s r)))

/-- A free value has been drawn. -/
def State.draw (s : State) : State := { s with freeDraws := s.freeDraws + 1 }

/-! ## Errors: taking one, and leaving it -/

/-- First error wins (R224). -/
def State.recordCause (s : State) (code : EngineError) : State := { s with cause := s.cause.orElse fun _ => some code }

/-- `raise EngineError(code)`: set its flag, and CAUSE if it is 0; nothing else is saved and control goes nowhere (R224). -/
def State.raise (s : State) (code : EngineError) : State := (s.setErrorFlag code).recordCause code

/-- There is no return from an error: INIT clears every flag and CAUSE (R231, R184). -/
def State.clearErrors (s : State) : State :=
  { s with errIllegal := false, errBusy := false, errSeq := false, errTooLarge := false, cause := none }

/-- A write that is ignored and records an error still gets an OKAY response (R224, R225). -/
def errorAnswer (code : EngineError) (s : State) : Answer := .next (s.raise code).acknowledge

/-- What an operation that may end in a fault answers; a write's response is OKAY. -/
def writeAnswer : Except Fault State → Answer
  | .ok s => .next s.acknowledge
  | .error f => .fault f

/-! ## Register writes -/

/-- A write to a writable register other than CMD: ignored with BUSY_WRITE while BUSY = 1 (R228, R201 to R203). -/
def guardedWrite (store : State → State) (s : State) : Answer :=
  if s.busy then errorAnswer .busyWrite s else .next (store s).acknowledge

/-- A write to a read-only register is ignored, with no error, whether BUSY is 0 or 1 (R56). -/
def ignoredWrite (s : State) : Answer := .next s.acknowledge

/-- `H[i] <- v; DV <- 0` (R201). -/
def State.writeH (i : Fin 8) (v : Word) (s : State) : State := { s with H := s.H.set i v, dv := false }

/-- `M[i] <- v` (R202). -/
def State.writeM (i : Fin 16) (v : Word) (s : State) : State := { s with M := s.M.set i v }

/-- `DATA_IN <- v` (R203). -/
def State.writeDataIn (v : Word) (s : State) : State := { s with dataIn := v }

/-! ## The engine's own operations -/

/-- `Load(head(Q))`: seed the working variables and the window, t ← 0 (R141). -/
def State.load (s : State) : State :=
  match s.Q with
  | [] => s
  | B :: _ => { s with working := seedWorking s.H, window := B, t := 0 }

/-- `Parse` as the padding unit calls it. MalformedInput, the one error `parse` raises, is a fault: fatal, and unreachable here
(R113, R222, U2). -/
def parseOrFault (p : List Byte) : Except Fault (List Block) :=
  match parse p with
  | .ok bs => .ok bs
  | .error _ => .error .malformedInput

/-- One byte joins BUF and is counted (R107). -/
def State.takeByte (s : State) (b : Byte) : State := { s with buf := s.buf ++ [b], msglen := s.msglen + 1 }

/-- Blocks join the tail of Q (R107, R148). -/
def State.enqueue (s : State) (bs : List Block) : State := { s with Q := s.Q ++ bs }

/-- BUF becomes empty (R107, R189). -/
def State.emptyBuf (s : State) : State := { s with buf := [] }

/-- `AbsorbByte(b)`: the byte that fills BUF dispatches its block at once (R107). -/
def absorbByte (s : State) (b : Byte) : Except Fault State :=
  if (s.takeByte b).buf.length = Config.blockBytes then
    match parseOrFault (s.takeByte b).buf with
    | .ok bs => .ok ((s.takeByte b).enqueue bs).emptyBuf
    | .error f => .error f
  else .ok (s.takeByte b)

/-- The bytes of an APPEND, in order (R188). -/
def absorbBytes (s : State) : List Byte → Except Fault State
  | [] => .ok s
  | b :: bs =>
    match absorbByte s b with
    | .ok s' => absorbBytes s' bs
    | .error f => .error f

/-- `SETDV <- v; Load(head(Q))`: a job begins (R188 to R190). -/
def State.startJob (s : State) (v : Bool) : State := State.load { s with setdv := v }

end Sys2Proof.Machine
end

