-- ==== Sys2Proof/Machine/Commands.lean ====
section
/-! DEFINITION. The command path and the meanings of the eight commands and of WR_CMD (44_commands.md rules R180 to R190). -/

namespace Sys2Proof.Machine

/-- `Allowed(c, PHASE)`, the phase table of R182. -/
def allowed : Command → Phase → Bool
  | .nop, _ => true
  | .init, _ => true
  | .append _, .absorb => true
  | .append _, .finalized => false
  | .append _, .error => false
  | .final, .absorb => true
  | .final, .finalized => false
  | .final, .error => false
  | .compress, .absorb => true
  | .compress, .finalized => true
  | .compress, .error => false

/-- `Perform(NOP)`: no effect (R183). -/
def performNop (s : State) : Except Fault State := .ok s

/-- `Perform(INIT)` (R184). -/
def performInit (s : State) : Except Fault State :=
  .ok { s.clearErrors with H := initialHash, msglen := 0, buf := [], phase := .absorb, dv := false }

/-- The length check of an APPEND.n: MSGLEN + n ≥ 2^61 (R187). -/
def tooLarge (n : ByteCount) (s : State) : Bool := Config.tooLargeBytes ≤ s.msglen.toNat + n.toNat

/-- An APPEND that is InputTooLarge: the error is recorded and PHASE ← ERROR; no byte is taken (R187). -/
def refuseTooLarge (s : State) : State := { s.raise .inputTooLarge with phase := .error }

/-- The end of an APPEND: a job begins if a byte filled BUF (R188). -/
def startIfDispatched (s : State) : State := if s.busy then s.startJob false else s

/-- `Perform(APPEND(n))` (R188). -/
def performAppend (n : ByteCount) (s : State) : Except Fault State :=
  if tooLarge n s then .ok (refuseTooLarge s)
  else
    match absorbBytes s (appendBytes n s.dataIn) with
    | .ok s' => .ok (startIfDispatched s')
    | .error f => .error f

/-- `Perform(FINAL)`: Q ← PadTail(), BUF ← [], SETDV ← true, PHASE ← FINALIZED, Load (R189). -/
def performFinal (s : State) : Except Fault State :=
  match parseOrFault (padTail s.buf s.msglen) with
  | .ok bs => .ok (State.startJob { s with Q := bs, buf := [], phase := .finalized } true)
  | .error f => .error f

/-- `Perform(COMPRESS)`: DV ← 0, Q ← a copy of M, SETDV ← false, Load (R190). -/
def performCompress (s : State) : Except Fault State := .ok (State.startJob { s with dv := false, Q := [s.M] } false)

/-- `Perform(c)` (R180). -/
def perform : Command → State → Except Fault State
  | .nop => performNop
  | .init => performInit
  | .append n => performAppend n
  | .final => performFinal
  | .compress => performCompress

/-- `WriteCMD` of a word that decodes as `d`, its checks in the order of R180 (R226): busy, illegal, sequence; then the effect. -/
def writeCmd (d : Except CommandReject Command) (s : State) : Answer :=
  if s.busy then errorAnswer .busyWrite s
  else
    match d with
    | .error _ => errorAnswer .illegalCmd s
    | .ok c => if allowed c s.phase then writeAnswer (perform c s) else errorAnswer .sequence s

/-- NOP (R183). -/
def execNop (s : State) : Answer := writeCmd (.ok .nop) s

/-- INIT (R184). -/
def execInit (s : State) : Answer := writeCmd (.ok .init) s

/-- APPEND.1 (R188). -/
def execAppend1 (s : State) : Answer := writeCmd (.ok (.append .one)) s

/-- APPEND.2 (R188). -/
def execAppend2 (s : State) : Answer := writeCmd (.ok (.append .two)) s

/-- APPEND.3 (R188). -/
def execAppend3 (s : State) : Answer := writeCmd (.ok (.append .three)) s

/-- APPEND.4 (R188). -/
def execAppend4 (s : State) : Answer := writeCmd (.ok (.append .four)) s

/-- FINAL (R189). -/
def execFinal (s : State) : Answer := writeCmd (.ok .final) s

/-- COMPRESS (R190). -/
def execCompress (s : State) : Answer := writeCmd (.ok .compress) s

/-- WR_CMD: `WriteCMD(v)` of any word (R180). -/
def execWrCmd (v : Word) (s : State) : Answer := writeCmd (decodeCommand v) s

end Sys2Proof.Machine
end

