-- ==== Sys2Proof/Machine/Registers.lean ====
section
/-! DEFINITION. The meanings of the register accesses other than WR_CMD (44_commands.md rules R200 to R203; 20_memory.md rule R56;
43_digest.md rules R170 and R172). -/

namespace Sys2Proof.Machine

/-- RD_CMD reads 0 (R37). -/
def execRdCmd (s : State) : Answer := readAnswer .cmd s

/-- RD_STATUS (R36). -/
def execRdStatus (s : State) : Answer := readAnswer .status s

/-- WR_STATUS is ignored (R56). -/
def execWrStatus (_v : Word) (s : State) : Answer := ignoredWrite s

/-- RD_DATA_IN (R25). -/
def execRdDataIn (s : State) : Answer := readAnswer .dataIn s

/-- WR_DATA_IN (R203). -/
def execWrDataIn (v : Word) (s : State) : Answer := guardedWrite (State.writeDataIn v) s

/-- RD_MSGLEN_LO (R38). -/
def execRdMsglenLo (s : State) : Answer := readAnswer .msglenLo s

/-- WR_MSGLEN_LO is ignored (R56). -/
def execWrMsglenLo (_v : Word) (s : State) : Answer := ignoredWrite s

/-- RD_MSGLEN_HI (R38). -/
def execRdMsglenHi (s : State) : Answer := readAnswer .msglenHi s

/-- WR_MSGLEN_HI is ignored (R56). -/
def execWrMsglenHi (_v : Word) (s : State) : Answer := ignoredWrite s

/-- RD_H[i]: H[i] when BUSY = 0; while BUSY = 1 a free value, each read a draw of its own (R200, R229, log 4). -/
def execRdH (i : Fin 8) (s : State) : Answer :=
  if s.busy then .next (s.respond (.data (readReg s (.h i)))).draw else readAnswer (.h i) s

/-- WR_H[i] (R201). -/
def execWrH (i : Fin 8) (v : Word) (s : State) : Answer := guardedWrite (State.writeH i v) s

/-- RD_M[i] (R200). -/
def execRdM (i : Fin 16) (s : State) : Answer := readAnswer (.m i) s

/-- WR_M[i] (R202). -/
def execWrM (i : Fin 16) (v : Word) (s : State) : Answer := guardedWrite (State.writeM i v) s

/-- RD_DIGEST[i] (R170). -/
def execRdDigest (i : Fin 8) (s : State) : Answer := readAnswer (.digest i) s

/-- WR_DIGEST[i] is ignored (R56). -/
def execWrDigest (_i : Fin 8) (_v : Word) (s : State) : Answer := ignoredWrite s

/-- RD_HEX[k] (R172). -/
def execRdHex (k : Fin 16) (s : State) : Answer := readAnswer (.hex k) s

/-- WR_HEX[k] is ignored (R56). -/
def execWrHex (_k : Fin 16) (_v : Word) (s : State) : Answer := ignoredWrite s

end Sys2Proof.Machine
end

