-- ==== Sys2Proof/Machine/Dispatch.lean ====
section
/-! DEFINITION. exec: one arm per operation. -/

namespace Sys2Proof.Machine

def exec (i : Instr) (s : State) : Host.Outcome State Fault Refusal :=
  match i with
  | .nop => Sys2Proof.Machine.execNop s
  | .init => Sys2Proof.Machine.execInit s
  | .append1 => Sys2Proof.Machine.execAppend1 s
  | .append2 => Sys2Proof.Machine.execAppend2 s
  | .append3 => Sys2Proof.Machine.execAppend3 s
  | .append4 => Sys2Proof.Machine.execAppend4 s
  | .final => Sys2Proof.Machine.execFinal s
  | .compress => Sys2Proof.Machine.execCompress s
  | .rdCmd => Sys2Proof.Machine.execRdCmd s
  | .wrCmd v => Sys2Proof.Machine.execWrCmd v s
  | .rdStatus => Sys2Proof.Machine.execRdStatus s
  | .wrStatus v => Sys2Proof.Machine.execWrStatus v s
  | .rdDataIn => Sys2Proof.Machine.execRdDataIn s
  | .wrDataIn v => Sys2Proof.Machine.execWrDataIn v s
  | .rdMsglenLo => Sys2Proof.Machine.execRdMsglenLo s
  | .wrMsglenLo v => Sys2Proof.Machine.execWrMsglenLo v s
  | .rdMsglenHi => Sys2Proof.Machine.execRdMsglenHi s
  | .wrMsglenHi v => Sys2Proof.Machine.execWrMsglenHi v s
  | .rdH j => Sys2Proof.Machine.execRdH j s
  | .wrH j v => Sys2Proof.Machine.execWrH j v s
  | .rdM j => Sys2Proof.Machine.execRdM j s
  | .wrM j v => Sys2Proof.Machine.execWrM j v s
  | .rdDigest j => Sys2Proof.Machine.execRdDigest j s
  | .wrDigest j v => Sys2Proof.Machine.execWrDigest j v s
  | .rdHex k => Sys2Proof.Machine.execRdHex k s
  | .wrHex k v => Sys2Proof.Machine.execWrHex k v s

end Sys2Proof.Machine
end

