-- ==== Sys2Proof/Machine/Engine.lean ====
section
/-! DEFINITION. The engine agent: its steps (42_compression.md rules R149 to R152). -/

namespace Sys2Proof.Machine

/-- `RoundStep()` for t < 64: Round(t), WindowStep(), t ← t + 1 (R150). -/
def State.roundStep (s : State) (h : s.t.val < Config.rounds) : State :=
  { s with
    working := mixRound s.working (roundConstant ⟨s.t.val, h⟩) s.window[0]
    window := windowStep s.window
    t := ⟨s.t.val + 1, Nat.succ_lt_succ h⟩ }

/-- `Complete()`: DV ← 1 if SETDV; SETDV ← false (R149). -/
def State.complete (s : State) : State := { s with dv := s.dv || s.setdv, setdv := false }

/-- `AddBack(); Q <- tail(Q)` (R151). -/
def State.foldHead (s : State) : State := { s with H := addBack s.H s.working, Q := s.Q.tail }

/-- `AddBackStep()`: then the next block is loaded, or the job completes (R151). -/
def State.addBackStep (s : State) : State :=
  match s.foldHead.Q with
  | [] => s.foldHead.complete
  | _ :: _ => s.foldHead.load

/-- The one engine step that is enabled: none when Q = [], a round while t < 64, the add-back at t = 64 (R150 to R152). -/
def State.engineStep (s : State) : State :=
  match s.Q with
  | [] => s
  | _ :: _ => if h : s.t.val < Config.rounds then s.roundStep h else s.addBackStep

end Sys2Proof.Machine
end

