-- ==== Sys2Proof/Machine/Access.lean ====
section
/-! DEFINITION. The two agents and the reset as events (20_memory.md rules R55, R57 and R60; 70_reset_and_hazards.md rules R250 to R252):
a host access, an engine step, a reset. -/

namespace Sys2Proof.Machine

/-- `HostAccess` of R55: the bus checks, then the register access. "In a model a BusError is a fault of the host access": this
function faults. An access outside the window is not this engine's (R51). -/
def hostAccess (a : HostAccess) (s : State) : Answer :=
  match decode s.basePage a with
  | .ok i => exec i s
  | .error (.busError r) => .fault (.busError r)
  | .error .outsideWindow => .refused .outsideWindow

/-- What the machine does about an access that faulted with BusError: the host receives the error response, with no data; no
engine state changes and no flag is set (R55). The host may go on (95_test_vectors.md P4, log 6). -/
def afterAccess (s : State) : Answer → Answer
  | .next s' => .next s'
  | .fault (.busError _) => .next (s.respond .busError)
  | .fault .malformedInput => .fault .malformedInput
  | .refused r => .refused r

/-- A reset: every element at its reset value, whatever the engine was doing (R250, R251). BASE is the platform's, and the events to
come and the free draws made are the model's own; they stay. -/
def resetEvent (s : State) : State :=
  { State.reset with basePage := s.basePage, pending := s.pending, freeDraws := s.freeDraws }

/-- One event takes effect (R57). -/
def nextEvent (e : Event) (s : State) : Answer :=
  match e with
  | .access a => afterAccess s (hostAccess a s)
  | .engine => .next s.engineStep
  | .reset => .next (resetEvent s)
  | .accessDuringReset _ => .refused .accessDuringReset

/-- The next event is taken out of the sequence. -/
def State.takeEvent (s : State) (rest : List Event) : State := { s with pending := rest }

/-- The sequence of events after placing one more in front. -/
def State.placeEvent (s : State) (e : Event) : State := { s with pending := e :: s.pending }

/-- One step: the next event of the sequence; when none is left, the engine's turn, so that a pending job goes on (weak fairness,
R60, R260) and an idle engine stays as it is (R152). -/
def runNextEvent (s : State) : Answer :=
  match s.pending with
  | [] => .next s.engineStep
  | e :: rest => nextEvent e (s.takeEvent rest)

end Sys2Proof.Machine
end

