-- ==== Sys2Proof/Machine/Step.lean ====
section
/-! DEFINITION. One step of the machine, and where a table word is placed so that the next step runs it. -/

namespace Sys2Proof.Machine

/-- One step: one event (R57, R60). -/
def step (s : State) : Host.Outcome State Fault Refusal := runNextEvent s

/-- `s` with the host access a table word stands for placed as the very next event (logs 1, 7). -/
def State.withFetchWord (s : State) (nbits w : Nat) : State := s.placeEvent (.access (tableAccess s.basePage nbits w))

end Sys2Proof.Machine
end

