-- ==== Sys2Proof/Machine/Contract.lean ====
section
/-! DEFINITION. The functional contracts the engine implements (42_compression.md rules R140, R153 and R154; 43_digest.md rule R160):
the 64-Word schedule, compress, the fold, digest, and what a pending job will leave in H. No meaning calls them; statements
compare the machine with them. -/

namespace Sys2Proof.Machine

/-- One more Word of a schedule that already holds t = 16 or more: W[t-16] + σ0(W[t-15]) + W[t-7] + σ1(W[t-2]) (R140). -/
def scheduleNext (W : List Word) : Word :=
  W.getD (W.length - 16) 0 + smallSigma0 (W.getD (W.length - 15) 0) + W.getD (W.length - 7) 0
    + smallSigma1 (W.getD (W.length - 2) 0)

/-- `n` more Words of a schedule. -/
def scheduleExtend (W : List Word) : Nat → List Word
  | 0 => W
  | n + 1 => scheduleExtend (W ++ [scheduleNext W]) n

/-- W[0..63] of a block (R140). -/
def schedule (B : Block) : List Word := scheduleExtend B.toList 48

/-- W[t] of a block. -/
def scheduleWord (B : Block) (t : Nat) : Word := (schedule B).getD t 0

/-- Rounds 0 to n − 1 of a block on working variables (R146), W[t] from the array. -/
def roundsDone (B : Block) (n : Nat) (v : Working) : Working :=
  ((List.finRange 64).take n).foldl (fun v t => mixRound v (roundConstant t) (scheduleWord B t.val)) v

/-- `compress(H, B)` (R153). -/
def compress (H : Hash) (B : Block) : Hash := addBack H (roundsDone B 64 (seedWorking H))

/-- The fold of compress over blocks, in order (R160). -/
def foldBlocks (H : Hash) (bs : List Block) : Hash := bs.foldl compress H

/-- The state after the fold over all blocks of a padded message (R160), before `Serialize`. -/
def digestState (m : List Byte) : Except CoreError Hash :=
  match pad m with
  | .error e => .error e
  | .ok p =>
    match parse p with
    | .error e => .error e
    | .ok bs => .ok (foldBlocks initialHash bs)

/-- `digest(m)`, 32 bytes (R160). -/
def digest (m : List Byte) : Except CoreError (List Byte) :=
  match digestState m with
  | .error e => .error e
  | .ok S => .ok (serialize S)

/-- `n` engine steps (R150 to R152). -/
def State.engineSteps (s : State) : Nat → State
  | 0 => s
  | n + 1 => s.engineStep.engineSteps n

/-- What the pending job will have left in H when it completes: the blocks of Q folded into H, in order (R154). H does not change
between a block's Load and its add-back, so this is meant at every moment of the job. -/
def State.jobResult (s : State) : Hash := foldBlocks s.H s.Q

/-- The first 64 primes p_0 = 2 .. p_63 = 311, from whose roots the ROM is defined (R130 to R132). -/
def firstPrimes : List Nat :=
  [2, 3, 5, 7, 11, 13, 17, 19, 23, 29, 31, 37, 41, 43, 47, 53, 59, 61, 67, 71, 73, 79, 83, 89, 97, 101, 103, 107, 109, 113, 127,
   131, 137, 139, 149, 151, 157, 163, 167, 173, 179, 181, 191, 193, 197, 199, 211, 223, 227, 229, 233, 239, 241, 251, 257, 263,
   269, 271, 277, 281, 283, 293, 307, 311]

end Sys2Proof.Machine
end

