-- ==== Sys2Proof/Safety.lean ====
section
/-! DEFINITION. The terms statements use: the invariant of the machine, states that differ only in what no host can see, and the host
behaviour of 43_digest.md rule R166. -/

namespace Sys2Proof.Machine

/-- The flag of an error (R220). -/
def State.errorFlag (s : State) : EngineError → Bool
  | .illegalCmd => s.errIllegal
  | .busyWrite => s.errBusy
  | .sequence => s.errSeq
  | .inputTooLarge => s.errTooLarge

/-- The datapath in the middle of a block: the working variables are the first t rounds of the head block on the running state (R141,
R146), and the window holds W[t], W[t+1], … (R143). -/
structure State.InBlock (s : State) (B : Block) : Prop where
  working : s.working = roundsDone B s.t.val (seedWorking s.H)
  window : ∀ j : Fin 16, s.t.val + j.val ≤ 63 → s.window[j] = scheduleWord B (s.t.val + j.val)

/-- The invariant of the machine. -/
structure State.Inv (s : State) : Prop where
  /-- len(BUF) = MSGLEN mod 64 until FINAL (R26, R109). -/
  bufCounted : s.phase ≠ .finalized → s.buf.length = s.msglen.toNat % 64
  /-- FINAL empties BUF (R189). -/
  bufFinal : s.phase = .finalized → s.buf = []
  /-- At most two blocks (R192). -/
  queueBound : s.Q.length ≤ 2
  /-- Only a FINAL job has two blocks (R192). -/
  twoBlocks : s.Q.length = 2 → s.setdv = true
  /-- SETDV travels with a FINAL job (R30). -/
  setdvJob : s.setdv = true → s.Q ≠ [] ∧ s.phase = .finalized
  /-- DV = 1 implies PHASE = FINALIZED and BUSY = 0 (R191). -/
  dvFinal : s.dv = true → s.phase = .finalized ∧ s.Q = []
  /-- PHASE = ERROR only after INPUT_TOO_LARGE, and no job runs in it (R27, R187). -/
  errorPhase : s.phase = .error → s.errTooLarge = true ∧ s.Q = []
  /-- CAUSE is 0 exactly when no flag is set (R35). -/
  causeNone : s.cause = none ↔ ∀ c, s.errorFlag c = false
  /-- CAUSE names an error whose flag is set (R35). -/
  causeFlag : ∀ c, s.cause = some c → s.errorFlag c = true
  /-- The datapath is in the middle of the head block (R141, R143). -/
  inBlock : ∀ B rest, s.Q = B :: rest → s.InBlock B

/-- Two states no host can tell apart: equal, or idle and different at most in the working variables, the window and t (R21, R22, R31,
R45). -/
def HiddenEq (s s' : State) : Prop :=
  s = s' ∨ (s.Q = [] ∧ ∃ v S t, s' = { s with working := v, window := S, t := t })

/-- The same relation on what a step answers. -/
def HiddenEqAnswer : Answer → Answer → Prop
  | .next s, .next s' => HiddenEq s s'
  | .fault f, .fault f' => f = f'
  | .refused r, .refused r' => r = r'
  | _, _ => False

/-- An operation that only reads. -/
def isRead : Instr → Bool
  | .rdCmd => true
  | .rdStatus => true
  | .rdDataIn => true
  | .rdMsglenLo => true
  | .rdMsglenHi => true
  | .rdH _ => true
  | .rdM _ => true
  | .rdDigest _ => true
  | .rdHex _ => true
  | .nop => false
  | .init => false
  | .append1 => false
  | .append2 => false
  | .append3 => false
  | .append4 => false
  | .final => false
  | .compress => false
  | .wrCmd _ => false
  | .wrStatus _ => false
  | .wrDataIn _ => false
  | .wrMsglenLo _ => false
  | .wrMsglenHi _ => false
  | .wrH _ _ => false
  | .wrM _ _ => false
  | .wrDigest _ _ => false
  | .wrHex _ _ => false

/-- APPEND.n as an operation. -/
def appendInstr (n : ByteCount) : Instr := (Command.append n).instr

/-- Something that happens while the host waits: the engine's turn, or a read (R60, R79 `wait`). -/
inductive Waits : State → State → Prop where
  | engine (s : State) : Waits s s.engineStep
  | read (s s' : State) (i : Instr) : isRead i = true → exec i s = .next s' → Waits s s'

/-- The host behaviour of R166 up to FINAL: from a state with BUSY = 0 it performs INIT, then it writes DATA_IN and issues APPENDs, each
with BUSY = 0, waiting as long as it likes in between. `Streams m s`: the bytes of m have been appended, and s is the state. -/
inductive Streams : List Byte → State → Prop where
  | init (s s' : State) : s.Q = [] → exec .init s = .next s' → Streams [] s'
  | wait (m : List Byte) (s s' : State) : Streams m s → Waits s s' → Streams m s'
  | dataIn (m : List Byte) (s s' : State) (v : Word) :
      Streams m s → s.Q = [] → exec (.wrDataIn v) s = .next s' → Streams m s'
  | append (m : List Byte) (s s' : State) (n : ByteCount) :
      Streams m s → s.Q = [] → m.length + n.toNat < Config.tooLargeBytes → exec (appendInstr n) s = .next s' →
      Streams (m ++ appendBytes n s.dataIn) s'

/-- The host behaviour of R166 from FINAL on. -/
inductive Finalizes : List Byte → State → Prop where
  | final (m : List Byte) (s s' : State) : Streams m s → s.Q = [] → exec .final s = .next s' → Finalizes m s'
  | wait (m : List Byte) (s s' : State) : Finalizes m s → Waits s s' → Finalizes m s'

end Sys2Proof.Machine
end

