-- ==== Sys2Proof/Certificates/Slice0/Obligations.lean ====
section
/-! DEFINITION. What is claimed of the machine, rule by rule. Each definition is one statement; the proofs are elsewhere. In them
`response` is the model's own account of what the host receives (log 5), `pending` its account of the order of events (log 1), and
`basePage` the platform's BASE (log 2). -/

open Sys2Proof Sys2Proof.Machine

/-! ## Encoding -/

/-- R72: the legal command words are exactly the eight; each is the command its row names. -/
def Obligations.LegalCommandWordsAreExactlyEight : Prop :=
  (∀ v : Word, (∃ c, decodeCommand v = .ok c) ↔
    v = 0x00000000 ∨ v = 0x00000001 ∨ v = 0x00000012 ∨ v = 0x00000022 ∨ v = 0x00000032 ∨ v = 0x00000042 ∨
      v = 0x00000003 ∨ v = 0x00000004) ∧
  decodeCommand 0x00000000 = .ok .nop ∧
  decodeCommand 0x00000001 = .ok .init ∧
  decodeCommand 0x00000012 = .ok (.append .one) ∧
  decodeCommand 0x00000022 = .ok (.append .two) ∧
  decodeCommand 0x00000032 = .ok (.append .three) ∧
  decodeCommand 0x00000042 = .ok (.append .four) ∧
  decodeCommand 0x00000003 = .ok .final ∧
  decodeCommand 0x00000004 = .ok .compress

/-- R75: a word is illegal exactly when OPC is 5..15, RSV ≠ 0, or NB is not what OPC requires; with BUSY = 0 a CMD write of it records
ILLEGAL_CMD and does nothing else; with BUSY = 1 the busy check comes first. -/
def Obligations.IllegalCommandWordsRecordIllegalCmd : Prop :=
  (∀ v : Word, (∃ e, decodeCommand v = .error e) ↔
    (5 ≤ v.toNat % 16 ∨ v.toNat / 128 ≠ 0 ∨
      (v.toNat % 16 = 2 ∧ ¬(1 ≤ v.toNat / 16 % 8 ∧ v.toNat / 16 % 8 ≤ 4)) ∨
      (v.toNat % 16 ≠ 2 ∧ v.toNat / 16 % 8 ≠ 0))) ∧
  (∀ (v : Word) (e : CommandReject) (s : State), decodeCommand v = .error e → s.Q = [] →
    exec (.wrCmd v) s =
      .next { s with errIllegal := true, cause := some (s.cause.getD .illegalCmd), response := .okay }) ∧
  (∀ (v : Word) (e : CommandReject) (s : State), decodeCommand v = .error e → s.Q ≠ [] →
    exec (.wrCmd v) s =
      .next { s with errBusy := true, cause := some (s.cause.getD .busyWrite), response := .okay })

/-- R41 and R77: the registers are at the offsets of the register map, and every other aligned offset is unmapped. -/
def Obligations.OffsetsDecodeByTheRegisterMap : Prop :=
  decodeReg 0x000 = some .cmd ∧ decodeReg 0x004 = some .status ∧ decodeReg 0x008 = some .dataIn ∧
  decodeReg 0x00C = some .msglenLo ∧ decodeReg 0x010 = some .msglenHi ∧
  (∀ i : Fin 8, decodeReg (BitVec.ofNat 12 (0x040 + 4 * i.val)) = some (.h i)) ∧
  (∀ i : Fin 16, decodeReg (BitVec.ofNat 12 (0x080 + 4 * i.val)) = some (.m i)) ∧
  (∀ i : Fin 8, decodeReg (BitVec.ofNat 12 (0x100 + 4 * i.val)) = some (.digest i)) ∧
  (∀ k : Fin 16, decodeReg (BitVec.ofNat 12 (0x140 + 4 * k.val)) = some (.hex k)) ∧
  (∀ off : BitVec 12, off.toNat % 4 = 0 →
    (decodeReg off = none ↔
      ((0x014 ≤ off.toNat ∧ off.toNat ≤ 0x03C) ∨ (0x060 ≤ off.toNat ∧ off.toNat ≤ 0x07C) ∨
        (0x0C0 ≤ off.toNat ∧ off.toNat ≤ 0x0FC) ∨ (0x120 ≤ off.toNat ∧ off.toNat ≤ 0x13C) ∨ 0x180 ≤ off.toNat)))

/-- Words written out from R72 and offsets written out from R77 decode to the operations they stand for, one or more per family. -/
def Obligations.SampleTableWordsDecode : Prop :=
  decodeTableWord 32 0b00000000000000000000000000000001 = some .init ∧
  decodeTableWord 32 0b00000000000000000000000001000010 = some .append4 ∧
  decodeTableWord 32 0b00000000000000000000000000000100 = some .compress ∧
  decodeTableWord 16 0b0000000000000100 = some .rdStatus ∧
  decodeTableWord 16 0b0000000001011100 = some (.rdH 7) ∧
  decodeTableWord 16 0b0000000101111100 = some (.rdHex 15) ∧
  decode 3 { dir := .write, addr := 3 * 4096 + 0x0BC, width := 32, data := 0x18 } = .ok (.wrM 15 0x18) ∧
  decode 3 { dir := .write, addr := 3 * 4096 + 0x000, width := 32, data := 0x32 } = .ok .append3 ∧
  decode 3 { dir := .write, addr := 3 * 4096 + 0x000, width := 32, data := 0x05 } = .ok (.wrCmd 0x05)

/-- Decoding the encoding of a well-formed operation gives it back, at every BASE. -/
def Obligations.DecodeInvertsEncode : Prop :=
  ∀ (basePage : Nat) (i : Instr), i.wellFormed = true → decode basePage (encode basePage i) = .ok i

/-- The other direction: what decodes is well formed, and encoding it gives back the access, but for the data field of a read, which no
decoder looks at. -/
def Obligations.EncodeInvertsDecode : Prop :=
  ∀ (basePage : Nat) (a : HostAccess) (i : Instr), decode basePage a = .ok i →
    i.wellFormed = true ∧ encode basePage i = (match a.dir with | .read => { a with data := 0 } | .write => a)

/-- R79 and R180: a CMD write of a command's word is that command. -/
def Obligations.CmdWriteOfACommandWordIsThatCommand : Prop :=
  ∀ (c : Command) (s : State), exec (.wrCmd c.word) s = exec c.instr s

/-! ## Reset -/

/-- R250: after a reset event, from any state, every element has its reset value, and likewise in `State.reset`; it is the state INIT
leaves, with M and DATA_IN zeroed. (The elements R250 leaves unspecified are not mentioned.) -/
def Obligations.ResetSetsEveryElement : Prop :=
  (∀ (s : State) (rest : List Event), s.pending = .reset :: rest →
    ∃ s', step s = .next s' ∧
      s'.H = initialHash ∧ (∀ i : Fin 16, s'.M[i] = 0) ∧ s'.dataIn = 0 ∧ s'.buf = [] ∧ s'.phase = .absorb ∧ s'.msglen = 0 ∧
      s'.Q = [] ∧ s'.setdv = false ∧ s'.dv = false ∧ s'.errIllegal = false ∧ s'.errBusy = false ∧ s'.errSeq = false ∧
      s'.errTooLarge = false ∧ s'.cause = none ∧ readReg s' .status = 0) ∧
  State.reset.H = initialHash ∧ (∀ i : Fin 16, State.reset.M[i] = 0) ∧ State.reset.dataIn = 0 ∧ State.reset.buf = [] ∧
  State.reset.phase = .absorb ∧ State.reset.msglen = 0 ∧ State.reset.Q = [] ∧ State.reset.setdv = false ∧
  State.reset.dv = false ∧ State.reset.errIllegal = false ∧ State.reset.errBusy = false ∧ State.reset.errSeq = false ∧
  State.reset.errTooLarge = false ∧ State.reset.cause = none ∧ readReg State.reset .status = 0 ∧
  (∀ s s' : State, s.Q = [] → s.setdv = false → exec .init s = .next s' →
    s'.H = State.reset.H ∧ s'.buf = State.reset.buf ∧ s'.phase = State.reset.phase ∧ s'.msglen = State.reset.msglen ∧
    s'.Q = State.reset.Q ∧ s'.setdv = State.reset.setdv ∧ s'.dv = State.reset.dv ∧ s'.errIllegal = State.reset.errIllegal ∧
    s'.errBusy = State.reset.errBusy ∧ s'.errSeq = State.reset.errSeq ∧ s'.errTooLarge = State.reset.errTooLarge ∧
    s'.cause = State.reset.cause ∧ s'.M = s.M ∧ s'.dataIn = s.dataIn)

/-- R251: a reset aborts a job; nothing else shortens Q but the add-back of its head block. -/
def Obligations.OnlyResetAbortsAJob : Prop :=
  (∀ (s : State) (rest : List Event), s.pending = .reset :: rest → s.Q ≠ [] →
    ∃ s', step s = .next s' ∧ s'.Q = [] ∧ s'.H = initialHash ∧ readReg s' .status = 0) ∧
  (∀ s s' : State, step s = .next s' → (∀ rest, s.pending ≠ .reset :: rest) → s.Q ≠ [] → s'.Q ≠ s.Q →
    s.t.val = 64 ∧ s'.Q = s.Q.tail ∧ s'.H = addBack s.H s.working)

/-! ## Steps -/

/-- One step is one event. A host access that decodes to an operation runs that operation; the engine's turn, given or left when no
event is, is one engine step; with no job pending (R152) the engine's turn changes nothing. (The order of events in `pending` is the
model's own, log 1.) -/
def Obligations.StepRunsTheNextEvent : Prop :=
  (∀ (s : State) (a : HostAccess) (rest : List Event) (i : Instr),
    s.pending = .access a :: rest → decode s.basePage a = .ok i → step s = exec i { s with pending := rest }) ∧
  (∀ (s : State) (rest : List Event), s.pending = .engine :: rest →
    step s = .next (State.engineStep { s with pending := rest })) ∧
  (∀ s : State, s.pending = [] → step s = .next s.engineStep) ∧
  (∀ s : State, s.Q = [] → s.engineStep = s)

/-- An access outside the window, and an access while reset is asserted (R252), are refused by name, whatever the state (logs 8 and 9). -/
def Obligations.ForeignAndResetAccessesAreRefused : Prop :=
  (∀ (s : State) (a : HostAccess) (rest : List Event), s.pending = .accessDuringReset a :: rest →
    step s = .refused .accessDuringReset) ∧
  (∀ (s : State) (a : HostAccess) (rest : List Event), s.pending = .access a :: rest →
    (a.addr < 4096 * s.basePage ∨ 4096 * s.basePage + 4096 ≤ a.addr) → step s = .refused .outsideWindow)

/-- R54 and R55: an access in the window is a BusError, a fault of the access, exactly when it is misaligned, not 32 bits wide, or at an
unmapped offset; no engine state changes and no flag is set, whether BUSY is 0 or 1. That the step then goes on with a next state is the
model's choice (log 6), and so is the form of the error response, which carries no data (log 5). -/
def Obligations.BusErrorChangesNoEngineState : Prop :=
  (∀ (s : State) (a : HostAccess) (off : BitVec 12), a.addr = 4096 * s.basePage + off.toNat →
    ((∃ r, hostAccess a s = .fault (.busError r)) ↔
      (off.toNat % 4 ≠ 0 ∨ a.width ≠ 32 ∨ decodeReg off = none))) ∧
  (∀ (s : State) (a : HostAccess) (off : BitVec 12) (rest : List Event),
    s.pending = .access a :: rest → a.addr = 4096 * s.basePage + off.toNat →
    (off.toNat % 4 ≠ 0 ∨ a.width ≠ 32 ∨ decodeReg off = none) →
    step s = .next { s with pending := rest, response := .busError })

/-- R221: no operation ends in a fault or a refusal, in any state: every one of them answers a next state. -/
def Obligations.EveryOperationAnswersANextState : Prop :=
  ∀ (i : Instr) (s : State), ∃ s', exec i s = .next s'

/-! ## Commands -/

/-- R183: NOP. -/
def Obligations.NopHasNoEffect : Prop :=
  decodeCommand 0x00000000 = .ok .nop ∧
  (∀ s : State, s.Q = [] →
    exec .nop s = .next { s with response := .okay } ∧ statusWord { s with response := .okay } = statusWord s) ∧
  (∀ s : State, s.Q ≠ [] →
    exec .nop s = .next { s with errBusy := true, cause := some (s.cause.getD .busyWrite), response := .okay })

/-- R184: INIT; it is the only operation that leaves the ERROR phase (as a command or as the CMD write of its word). -/
def Obligations.InitStartsANewMessage : Prop :=
  decodeCommand 0x00000001 = .ok .init ∧
  (∀ s : State, s.Q = [] →
    exec .init s = .next
      { s with H := initialHash, msglen := 0, buf := [], phase := .absorb, dv := false, errIllegal := false,
               errBusy := false, errSeq := false, errTooLarge := false, cause := none, response := .okay }) ∧
  (∀ s s' : State, s.Q = [] → exec .init s = .next s' → statusWord s' = 0) ∧
  (∀ s : State, s.Q ≠ [] →
    exec .init s = .next { s with errBusy := true, cause := some (s.cause.getD .busyWrite), response := .okay }) ∧
  (∀ (i : Instr) (s s' : State), s.phase = .error → exec i s = .next s' → s'.phase ≠ .error →
    i = .init ∨ i = .wrCmd 0x00000001)

/-- R74 and R186: the bytes of an APPEND.n are the n most significant bytes of DATA_IN, first byte first; the lower bits are ignored; the
four bytes of an APPEND.4 are a big-endian Word. -/
def Obligations.AppendBytesAreTheTopBytesOfDataIn : Prop :=
  (∀ (n : ByteCount) (w : Word), (appendBytes n w).length = n.toNat) ∧
  (∀ (n : ByteCount) (w : Word) (j : Nat), j < n.toNat →
    ((appendBytes n w).getD j 0).toNat = w.toNat / 2 ^ (24 - 8 * j) % 256) ∧
  (∀ (n : ByteCount) (w w' : Word), w.toNat / 2 ^ (32 - 8 * n.toNat) = w'.toNat / 2 ^ (32 - 8 * n.toNat) →
    appendBytes n w = appendBytes n w') ∧
  (∀ w : Word, appendBytes .four w = bytesBE32 w ∧ chunkWord (appendBytes .four w) 0 = w)

/-- R188: an APPEND.n that passes its checks and does not fill BUF: n bytes join BUF and are counted, and nothing else changes. -/
def Obligations.AppendThatDoesNotFillBuf : Prop :=
  ∀ (n : ByteCount) (s : State), s.Q = [] → s.phase = .absorb → s.msglen.toNat + n.toNat < 2 ^ 61 → s.buf.length + n.toNat < 64 →
    exec (appendInstr n) s = .next
      { s with buf := s.buf ++ appendBytes n s.dataIn, msglen := s.msglen + BitVec.ofNat 61 n.toNat, response := .okay }

/-- R107 and R188: an APPEND.n that fills BUF dispatches the 64 bytes as one block and starts a job on it; the bytes after stay in BUF. -/
def Obligations.AppendThatFillsBufStartsAJob : Prop :=
  ∀ (n : ByteCount) (s : State), s.Q = [] → s.phase = .absorb → s.msglen.toNat + n.toNat < 2 ^ 61 → s.buf.length < 64 →
    64 ≤ s.buf.length + n.toNat →
    exec (appendInstr n) s = .next
      { s with
        buf := (s.buf ++ appendBytes n s.dataIn).drop 64
        msglen := s.msglen + BitVec.ofNat 61 n.toNat
        Q := [parseChunk ((s.buf ++ appendBytes n s.dataIn).take 64)]
        setdv := false
        working := { a := s.H[0], b := s.H[1], c := s.H[2], d := s.H[3], e := s.H[4], f := s.H[5], g := s.H[6], h := s.H[7] }
        window := parseChunk ((s.buf ++ appendBytes n s.dataIn).take 64)
        t := 0
        response := .okay }

/-- R187: an APPEND.n with MSGLEN + n ≥ 2^61 records INPUT_TOO_LARGE and enters ERROR; no byte is taken; so MSGLEN < 2^61 at all times, and
no step from MSGLEN < 2^61 wraps it: it grows by at most 4 or becomes 0. -/
def Obligations.TooLargeAppendIsRefusedWhole : Prop :=
  (∀ (n : ByteCount) (s : State), s.Q = [] → s.phase = .absorb → 2 ^ 61 ≤ s.msglen.toNat + n.toNat →
    exec (appendInstr n) s = .next
      { s with errTooLarge := true, cause := some (s.cause.getD .inputTooLarge), phase := .error, response := .okay }) ∧
  (∀ (i : Instr) (s s' : State), exec i s = .next s' →
    s'.msglen = 0 ∨ (s.msglen.toNat ≤ s'.msglen.toNat ∧ s'.msglen.toNat ≤ s.msglen.toNat + 4))

/-- R257: which operations start a job: FINAL and COMPRESS when accepted; an accepted APPEND.n exactly when (MSGLEN mod 64) + n ≥ 64;
NOP and INIT never. -/
def Obligations.WhichCommandsStartAJob : Prop :=
  (∀ s s' : State, s.Q = [] → s.phase = .absorb → exec .final s = .next s' → s'.Q ≠ []) ∧
  (∀ s s' : State, s.Q = [] → s.phase ≠ .error → exec .compress s = .next s' → s'.Q ≠ []) ∧
  (∀ (n : ByteCount) (s s' : State), s.Inv → s.Q = [] → s.phase = .absorb → s.msglen.toNat + n.toNat < 2 ^ 61 →
    exec (appendInstr n) s = .next s' → (s'.Q ≠ [] ↔ 64 ≤ s.msglen.toNat % 64 + n.toNat)) ∧
  (∀ s s' : State, s.Q = [] → exec .nop s = .next s' → s'.Q = []) ∧
  (∀ s s' : State, s.Q = [] → exec .init s = .next s' → s'.Q = [])

/-- R189 and R110: FINAL pads BUF to one block (len(BUF) ≤ 55) or two (56 to 63), and starts the job that ends with DV. -/
def Obligations.FinalPadsAndStartsTheLastJob : Prop :=
  ∀ s : State, s.Q = [] → s.phase = .absorb → s.buf.length ≤ 63 →
    ∃ (B : Block) (rest : List Block),
      parse (s.buf ++ [0x80] ++ List.replicate ((55 + 64 - s.buf.length) % 64) 0 ++ be64 (8 * s.msglen.toNat)) = .ok (B :: rest) ∧
      rest.length = (if s.buf.length ≤ 55 then 0 else 1) ∧
      exec .final s = .next
        { s with
          Q := B :: rest
          buf := []
          setdv := true
          phase := .finalized
          working := { a := s.H[0], b := s.H[1], c := s.H[2], d := s.H[3], e := s.H[4], f := s.H[5], g := s.H[6], h := s.H[7] }
          window := B
          t := 0
          response := .okay }

/-- R190: COMPRESS copies M into the job and clears DV; PHASE, MSGLEN and BUF are unchanged. -/
def Obligations.CompressStartsARawJob : Prop :=
  ∀ s : State, s.Q = [] → s.phase ≠ .error →
    exec .compress s = .next
      { s with
        dv := false
        Q := [s.M]
        setdv := false
        working := { a := s.H[0], b := s.H[1], c := s.H[2], d := s.H[3], e := s.H[4], f := s.H[5], g := s.H[6], h := s.H[7] }
        window := s.M
        t := 0
        response := .okay }

/-- R182: the phase table. A command not allowed in the phase records SEQUENCE and does nothing else; an allowed one does not. -/
def Obligations.PhaseTableDecidesSequence : Prop :=
  (∀ (c : Command) (p : Phase), allowed c p = false ↔
    ((∃ n, c = .append n) ∧ p ≠ .absorb) ∨ (c = .final ∧ p ≠ .absorb) ∨ (c = .compress ∧ p = .error)) ∧
  (∀ (c : Command) (s : State), s.Q = [] → allowed c s.phase = false →
    exec c.instr s = .next { s with errSeq := true, cause := some (s.cause.getD .sequence), response := .okay }) ∧
  (∀ (c : Command) (s s' : State), s.Q = [] → allowed c s.phase = true → exec c.instr s = .next s' →
    s'.errSeq = true → s.errSeq = true)

/-- R228: while BUSY = 1 every write to a writable register, NOP and INIT among them, is ignored and records BUSY_WRITE; a write to a
read-only register is ignored with no error. -/
def Obligations.WritesWhileBusyAreIgnored : Prop :=
  (∀ (i : Instr) (s : State), s.Q ≠ [] →
    ((∃ c : Command, i = c.instr) ∨ (∃ v, i = .wrCmd v) ∨ (∃ v, i = .wrDataIn v) ∨ (∃ j v, i = .wrH j v) ∨
      (∃ j v, i = .wrM j v)) →
    exec i s = .next { s with errBusy := true, cause := some (s.cause.getD .busyWrite), response := .okay }) ∧
  (∀ (i : Instr) (s : State), s.Q ≠ [] →
    ((∃ v, i = .wrStatus v) ∨ (∃ v, i = .wrMsglenLo v) ∨ (∃ v, i = .wrMsglenHi v) ∨ (∃ j v, i = .wrDigest j v) ∨
      (∃ k v, i = .wrHex k v)) →
    exec i s = .next { s with response := .okay })

/-! ## Register accesses -/

/-- R201: a write to H[i] with BUSY = 0 stores the Word and clears DV; no other H changes, nor anything else. -/
def Obligations.WriteHStoresAndClearsDv : Prop :=
  (∀ (i : Fin 8) (v : Word) (s : State), s.Q = [] →
    exec (.wrH i v) s = .next { s with H := s.H.set i v, dv := false, response := .okay } ∧
    (∀ j : Fin 8, (s.H.set i v)[j] = if j = i then v else s.H[j])) ∧
  (∀ (i : Fin 8) (v : Word) (s : State), s.Q ≠ [] →
    exec (.wrH i v) s = .next { s with errBusy := true, cause := some (s.cause.getD .busyWrite), response := .okay })

/-- R202: a write to M[i] with BUSY = 0 stores the Word; no other M changes, nor anything else. -/
def Obligations.WriteMStores : Prop :=
  (∀ (i : Fin 16) (v : Word) (s : State), s.Q = [] →
    exec (.wrM i v) s = .next { s with M := s.M.set i v, response := .okay } ∧
    (∀ j : Fin 16, (s.M.set i v)[j] = if j = i then v else s.M[j])) ∧
  (∀ (i : Fin 16) (v : Word) (s : State), s.Q ≠ [] →
    exec (.wrM i v) s = .next { s with errBusy := true, cause := some (s.cause.getD .busyWrite), response := .okay })

/-- R203: a write to DATA_IN with BUSY = 0 stores the Word; an APPEND keeps it, so the same bytes can be appended again. -/
def Obligations.WriteDataInStores : Prop :=
  (∀ (v : Word) (s : State), s.Q = [] → exec (.wrDataIn v) s = .next { s with dataIn := v, response := .okay }) ∧
  (∀ (v : Word) (s : State), s.Q ≠ [] →
    exec (.wrDataIn v) s = .next { s with errBusy := true, cause := some (s.cause.getD .busyWrite), response := .okay }) ∧
  (∀ (n : ByteCount) (s s' : State), exec (appendInstr n) s = .next s' → s'.dataIn = s.dataIn)

/-- R56: a write to a read-only register is answered OKAY and changes nothing, whether BUSY is 0 or 1. -/
def Obligations.WritesToReadOnlyRegistersAreIgnored : Prop :=
  ∀ (v : Word) (s : State),
    exec (.wrStatus v) s = .next { s with response := .okay } ∧
    exec (.wrMsglenLo v) s = .next { s with response := .okay } ∧
    exec (.wrMsglenHi v) s = .next { s with response := .okay } ∧
    (∀ i : Fin 8, exec (.wrDigest i v) s = .next { s with response := .okay }) ∧
    (∀ k : Fin 16, exec (.wrHex k v) s = .next { s with response := .okay })

/-- R36: STATUS, bit by bit; it reads 0 in every bit from 12 up. -/
def Obligations.StatusReadsTheFlags : Prop :=
  ∀ s : State, ∃ v : Word, exec .rdStatus s = .next { s with response := .data v } ∧
    (v.getLsbD 0 = true ↔ s.Q ≠ []) ∧
    v.getLsbD 1 = s.dv ∧
    v.toNat / 4 % 4 = (match s.phase with | .absorb => 0 | .finalized => 1 | .error => 2) ∧
    v.getLsbD 4 = s.errIllegal ∧ v.getLsbD 5 = s.errBusy ∧ v.getLsbD 6 = s.errSeq ∧ v.getLsbD 7 = s.errTooLarge ∧
    v.toNat / 256 = (match s.cause with
      | none => 0 | some .illegalCmd => 1 | some .busyWrite => 2 | some .sequence => 3 | some .inputTooLarge => 4)

/-- R38: MSGLEN_LO and MSGLEN_HI are the low 32 and the high 29 bits of the byte count; bits 31:29 of MSGLEN_HI read 0. -/
def Obligations.MsglenReadsAsTwoWords : Prop :=
  (∀ s : State, ∃ lo hi : Word,
    exec .rdMsglenLo s = .next { s with response := .data lo } ∧ exec .rdMsglenHi s = .next { s with response := .data hi } ∧
    hi.toNat < 2 ^ 29 ∧ hi.toNat * 2 ^ 32 + lo.toNat = s.msglen.toNat) ∧
  exec .rdMsglenLo State.reset = .next { State.reset with response := .data 0 } ∧
  exec .rdMsglenHi State.reset = .next { State.reset with response := .data 0 }

/-- R37, R25, R24 and R200: CMD reads 0; DATA_IN, M[i] and, with BUSY = 0, H[i] read as stored. -/
def Obligations.PlainRegistersReadAsStored : Prop :=
  (∀ s : State, exec .rdCmd s = .next { s with response := .data 0 }) ∧
  (∀ s : State, exec .rdDataIn s = .next { s with response := .data s.dataIn }) ∧
  (∀ (i : Fin 16) (s : State), exec (.rdM i) s = .next { s with response := .data s.M[i] }) ∧
  (∀ (i : Fin 8) (s : State), s.Q = [] → exec (.rdH i) s = .next { s with response := .data s.H[i] })

/-- R229: while BUSY = 1 a read of H[i] returns a free value, a draw of its own each time: whatever the free value, the read completes and
changes nothing but the count of draws. -/
def Obligations.ReadHWhileBusyIsAFreeValue : Prop :=
  ∀ (i : Fin 8) (s : State), s.Q ≠ [] →
    exec (.rdH i) s = .next
      { s with response := .data (Config.freeHRead s.freeDraws), freeDraws := s.freeDraws + 1 }

/-- R170: DIGEST[i] reads H[i] when DV = 1 and 0 when DV = 0. -/
def Obligations.DigestReadsHWhenValid : Prop :=
  ∀ (i : Fin 8) (s : State),
    (s.dv = true → exec (.rdDigest i) s = .next { s with response := .data s.H[i] }) ∧
    (s.dv = false → exec (.rdDigest i) s = .next { s with response := .data 0 })

/-- HEX[k] reads 0 when DV = 0; when DV = 1 its bits [31−8j : 24−8j] are character 4k+j of the hex text of the digest (R172); character n of
the text is the hex digit of S[n div 8][31 − 4·(n mod 8) : 28 − 4·(n mod 8)] (R162; n is 8i + m here). The character codes, '0' + v below 10 and 'a' + v − 10
from 10 on, are what R163 marks as general knowledge, PRESUMED by the model (log 17). -/
def Obligations.HexReadsTheDigestText : Prop :=
  (∀ (k : Fin 16) (s : State),
    (s.dv = false → exec (.rdHex k) s = .next { s with response := .data 0 }) ∧
    (s.dv = true → ∃ v : Word, exec (.rdHex k) s = .next { s with response := .data v } ∧
      ∀ j : Nat, j < 4 → (hexText (serialize s.H))[4 * k.val + j]? = some (v.extractLsb' (24 - 8 * j) 8))) ∧
  (∀ (S : Hash) (i : Fin 8) (m : Nat), m < 8 →
    (hexText (serialize S))[8 * i.val + m]? = some (hexdigit (S[i].extractLsb' (28 - 4 * m) 4))) ∧
  (∀ v : BitVec 4, v.toNat < 10 → (hexdigit v).toNat = 0x30 + v.toNat) ∧
  (∀ v : BitVec 4, 10 ≤ v.toNat → (hexdigit v).toNat = 0x61 + (v.toNat - 10))

/-- R58: no read has a side effect: everything but the response and the count of free draws is as before, and with BUSY = 0 reading again
gives the same answer. -/
def Obligations.ReadsHaveNoSideEffect : Prop :=
  (∀ (i : Instr) (s s' : State), isRead i = true → exec i s = .next s' →
    s' = { s with response := s'.response, freeDraws := s'.freeDraws }) ∧
  (∀ (i : Instr) (s s' : State), isRead i = true → s.Q = [] → exec i s = .next s' → exec i s' = .next s')

/-! ## Word functions and the ROM -/

/-- R120, R121 and R124 to R129, bit by bit: bit i of ROTR(x, n) is bit (i + n) mod 32 of x; a shift fills with zeros; the four mixing
functions xor three such bits; Ch chooses; Maj is the majority. -/
def Obligations.WordFunctionsBitByBit : Prop :=
  (∀ (x : Word) (n : Nat) (h : 1 ≤ n ∧ n ≤ 31) (i : Nat), i < 32 → (rotr x n h).getLsbD i = x.getLsbD ((i + n) % 32)) ∧
  (∀ (x : Word) (n : Nat), (shr x n).toNat = x.toNat / 2 ^ n) ∧
  (∀ (x : Word) (i : Nat), i < 32 →
    (smallSigma0 x).getLsbD i = ((x.getLsbD ((i + 7) % 32) ^^ x.getLsbD ((i + 18) % 32)) ^^ (decide (i + 3 < 32) && x.getLsbD (i + 3))) ∧
    (smallSigma1 x).getLsbD i = ((x.getLsbD ((i + 17) % 32) ^^ x.getLsbD ((i + 19) % 32)) ^^ (decide (i + 10 < 32) && x.getLsbD (i + 10))) ∧
    (bigSigma0 x).getLsbD i = ((x.getLsbD ((i + 2) % 32) ^^ x.getLsbD ((i + 13) % 32)) ^^ x.getLsbD ((i + 22) % 32)) ∧
    (bigSigma1 x).getLsbD i = ((x.getLsbD ((i + 6) % 32) ^^ x.getLsbD ((i + 11) % 32)) ^^ x.getLsbD ((i + 25) % 32))) ∧
  (∀ (x y z : Word) (i : Nat), (ch x y z).getLsbD i = if x.getLsbD i then y.getLsbD i else z.getLsbD i) ∧
  (∀ (x y z : Word) (i : Nat), (maj x y z).getLsbD i =
    (x.getLsbD i && y.getLsbD i || x.getLsbD i && z.getLsbD i || y.getLsbD i && z.getLsbD i))

/-- R144 and R145: T1 and T2 are sums modulo 2^32. -/
def Obligations.RoundTemporariesAreSumsModulo : Prop :=
  (∀ (v : Working) (k w : Word), (temp1 v k w).toNat =
    (v.h.toNat + (bigSigma1 v.e).toNat + (ch v.e v.f v.g).toNat + k.toNat + w.toNat) % 2 ^ 32) ∧
  (∀ v : Working, (temp2 v).toNat = ((bigSigma0 v.a).toNat + (maj v.a v.b v.c).toNat) % 2 ^ 32)

/-- R130, R131 and R132: K[t] is icbrt(p·2^96) mod 2^32 and IV[i] is isqrt(p·2^64) mod 2^32 for the t-th and i-th prime. -/
def Obligations.RomHoldsTheRootsOfThePrimes : Prop :=
  (∀ t : Fin 64, ∃ q : Nat, q < 8 ∧
    let c := q * 2 ^ 32 + (roundConstant t).toNat
    let n := firstPrimes.getD t.val 0 * 2 ^ 96
    c ^ 3 ≤ n ∧ n < (c + 1) ^ 3) ∧
  (∀ i : Fin 8, ∃ q : Nat, q < 8 ∧
    let c := q * 2 ^ 32 + initialHash[i].toNat
    let n := firstPrimes.getD i.val 0 * 2 ^ 64
    c ^ 2 ≤ n ∧ n < (c + 1) ^ 2) ∧
  firstPrimes = (List.range 312).filter (fun n => 2 ≤ n && (List.range n).all fun d => d < 2 || n % d != 0)

/-! ## Schedule, rounds and jobs -/

/-- R140: the schedule of a block has 64 Words, the block's own and then the recurrence. -/
def Obligations.ScheduleFollowsTheRecurrence : Prop :=
  ∀ B : Block, (schedule B).length = 64 ∧
    (∀ t : Fin 16, scheduleWord B t.val = B[t]) ∧
    (∀ t : Nat, 16 ≤ t → t < 64 →
      scheduleWord B t = scheduleWord B (t - 16) + smallSigma0 (scheduleWord B (t - 15)) + scheduleWord B (t - 7)
        + smallSigma1 (scheduleWord B (t - 2)))

/-- R143: after Load(B) and t rounds the window holds W[t], W[t+1], … as far as W[63]. -/
def Obligations.WindowSuppliesTheSchedule : Prop :=
  ∀ (s : State) (B : Block) (rest : List Block) (t : Nat) (j : Fin 16), s.Q = B :: rest → t + j.val ≤ 63 →
    (s.load.engineSteps t).window[j] = scheduleWord B (t + j.val)

/-- R146 and R150: one round of the head block, all right-hand sides read before it; nothing else changes. -/
def Obligations.RoundStepMixesTheWorkingVariables : Prop :=
  ∀ (s : State) (h : s.t.val < 64), s.Q ≠ [] →
    let v := s.working
    let t1 := v.h + bigSigma1 v.e + ch v.e v.f v.g + roundConstant ⟨s.t.val, h⟩ + s.window[0]
    let t2 := bigSigma0 v.a + maj v.a v.b v.c
    s.engineStep.working = { a := t1 + t2, b := v.a, c := v.b, d := v.c, e := v.d + t1, f := v.e, g := v.f, h := v.g } ∧
    (∀ (j : Nat) (hj : j < 15), s.engineStep.window[j] = s.window[j + 1]) ∧
    s.engineStep.window[15] = s.window[0] + smallSigma0 s.window[1] + s.window[9] + smallSigma1 s.window[14] ∧
    s.engineStep.t.val = s.t.val + 1 ∧
    s.engineStep =
      { s with working := s.engineStep.working, window := s.engineStep.window, t := s.engineStep.t }

/-- R147, R149 and R151: the add-back step adds the working variables into H and takes the block off Q; then the next block is loaded from the
new H, or the job completes and DV is set if SETDV is; nothing else changes. -/
def Obligations.AddBackStepFoldsAndGoesOn : Prop :=
  (∀ s : State, s.t.val = 64 → s.Q ≠ [] →
    s.engineStep.H = #v[s.H[0] + s.working.a, s.H[1] + s.working.b, s.H[2] + s.working.c, s.H[3] + s.working.d,
      s.H[4] + s.working.e, s.H[5] + s.working.f, s.H[6] + s.working.g, s.H[7] + s.working.h]) ∧
  (∀ (s : State) (B C : Block) (rest : List Block), s.t.val = 64 → s.Q = B :: C :: rest →
    let H' := s.engineStep.H
    s.engineStep =
      { s with
        H := H', Q := C :: rest, window := C, t := 0
        working := { a := H'[0], b := H'[1], c := H'[2], d := H'[3], e := H'[4], f := H'[5], g := H'[6], h := H'[7] } }) ∧
  (∀ (s : State) (B : Block), s.t.val = 64 → s.Q = [B] →
    s.engineStep = { s with H := s.engineStep.H, Q := [], dv := s.dv || s.setdv, setdv := false })

/-- R153: Load(B), the 64 rounds and AddBack, 65 engine steps, leave compress(H, B) in H and take exactly that block off Q, from every H,
every B and every value of everything else. -/
def Obligations.SixtyFiveStepsCompressTheHeadBlock : Prop :=
  ∀ (s : State) (B : Block) (rest : List Block), s.Q = B :: rest →
    (s.load.engineSteps 65).H = compress s.H B ∧ (s.load.engineSteps 65).Q = rest

/-- R154: under the invariant, no event but a reset changes what the pending job will have left in H, and a job that has completed has left
it there. -/
def Obligations.JobResultSurvivesEveryInterleaving : Prop :=
  ∀ s s' : State, s.Inv → s.Q ≠ [] → (∀ rest, s.pending ≠ .reset :: rest) → step s = .next s' →
    s'.jobResult = s.jobResult ∧ (s'.Q = [] → s'.H = s.jobResult)

/-- R152 and R260: with no further event, a pending job completes after exactly 65 engine steps a block, less those its head block has had,
at most 130; H is then the job's result, and DV is 1 if the job was a FINAL's. -/
def Obligations.PendingJobCompletesWithin130Steps : Prop :=
  ∀ s : State, s.Inv → s.Q ≠ [] → s.pending = [] →
    65 * s.Q.length - s.t.val ≤ 130 ∧
    (∃ s', Sys2Proof.core.run (65 * s.Q.length - s.t.val) s = .next s' ∧
      s'.Q = [] ∧ s'.H = s.jobResult ∧ s'.dv = s.setdv) ∧
    (∀ n, n < 65 * s.Q.length - s.t.val → ∃ s', Sys2Proof.core.run n s = .next s' ∧ s'.Q ≠ [])

/-! ## Padding, parsing and the digest -/

/-- R100 to R103: a padded message is the message, 0x80, z zero bytes and the 64-bit bit length; it is 64·(⌊(len+8)/64⌋+1) bytes, 9 to 72
more than the message, 9 exactly when len mod 64 = 55 and 72 exactly when len mod 64 = 56; 2^61 bytes or more are InputTooLarge. -/
def Obligations.PaddedMessageLength : Prop :=
  (∀ m : List Byte, 2 ^ 61 ≤ m.length → pad m = .error .inputTooLarge) ∧
  (∀ m : List Byte, m.length < 2 ^ 61 → ∃ z, z < 64 ∧ (m.length + 1 + z) % 64 = 56 ∧
    pad m = .ok (m ++ [0x80] ++ List.replicate z 0 ++ be64 (8 * m.length)) ∧
    m.length + 9 + z = 64 * ((m.length + 8) / 64 + 1) ∧
    (9 + z = 9 ↔ m.length % 64 = 55) ∧ (9 + z = 72 ↔ m.length % 64 = 56)) ∧
  (∀ v : Nat, v < 2 ^ 64 → (be64 v).length = 8 ∧ ∀ j : Nat, j < 8 → ((be64 v).getD j 0).toNat = v / 2 ^ (56 - 8 * j) % 256)

/-- R111 to R113: parse gives the chunks in order, word i of chunk j from bytes 64j+4i .. 64j+4i+3 big-endian; a length that is no multiple of
64 is MalformedInput, and only that. -/
def Obligations.ParseIsBigEndianAndOrdered : Prop :=
  (∀ p : List Byte, p.length % 64 ≠ 0 ↔ parse p = .error .malformedInput) ∧
  (∀ p : List Byte, p.length % 64 = 0 → ∃ bs, parse p = .ok bs ∧ bs.length = p.length / 64 ∧
    ∀ (j : Nat) (i : Fin 16) (b0 b1 b2 b3 : Byte) (B : Block), bs[j]? = some B →
      p[64 * j + 4 * i.val]? = some b0 → p[64 * j + 4 * i.val + 1]? = some b1 →
      p[64 * j + 4 * i.val + 2]? = some b2 → p[64 * j + 4 * i.val + 3]? = some b3 →
      B[i].toNat = b0.toNat * 2 ^ 24 + b1.toNat * 2 ^ 16 + b2.toNat * 2 ^ 8 + b3.toNat)

/-- R110 (soundness): the full chunks of a message, then the blocks of PadTail over what is left, are the blocks of pad(m) in order. -/
def Obligations.PadTailCompletesThePaddedMessage : Prop :=
  ∀ (m : List Byte) (n : BitVec 61), n.toNat = m.length →
    ∃ p full last, pad m = .ok p ∧ parse (m.take (64 * (m.length / 64))) = .ok full ∧
      parse (padTail (m.drop (64 * (m.length / 64))) n) = .ok last ∧ parse p = .ok (full ++ last) ∧
      last.length = (if m.length % 64 ≤ 55 then 1 else 2)

/-- R108: while the host streams a message, MSGLEN is the number of bytes appended, BUF is what is left after the full chunks, and H, once the
pending job is done, is the fold of the full chunks in order. -/
def Obligations.StreamingKeepsThePaddingInvariant : Prop :=
  ∀ (m : List Byte) (s : State), Streams m s →
    s.phase = .absorb ∧ s.msglen.toNat = m.length ∧ s.buf = m.drop (64 * (m.length / 64)) ∧
    ∃ full, parse (m.take (64 * (m.length / 64))) = .ok full ∧ s.jobResult = foldBlocks initialHash full

/-- R160 and R166: a host that performs INIT, appends a message in any chunks, and performs FINAL, each with BUSY = 0 and waiting as it likes in
between, finds, once BUSY reads 0, DV = 1, PHASE = FINALIZED and the digest of the message. -/
def Obligations.StreamedDigestIsTheDigest : Prop :=
  ∀ (m : List Byte) (s : State), Finalizes m s → s.Q = [] →
    s.dv = true ∧ s.phase = .finalized ∧ digest m = .ok (serialize s.H)

/-- R161 and R165: the digest is 32 bytes, byte 4i + j being bits [31−8j : 24−8j] of word i, and its hex text is 64 characters. -/
def Obligations.SerializeIsBigEndian : Prop :=
  ∀ S : Hash, (serialize S).length = 32 ∧ (hexText (serialize S)).length = 64 ∧
    ∀ (i : Fin 8) (j : Nat), j < 4 →
      ∃ b : Byte, (serialize S)[4 * i.val + j]? = some b ∧ b.toNat = S[i].toNat / 2 ^ (24 - 8 * j) % 256

/-! ## Whole-machine rules -/

/-- The invariant holds at reset. -/
def Obligations.ResetMeetsTheInvariant : Prop := State.reset.Inv

/-- Every step keeps the invariant, from every state that has it (R26, R109, R141, R143, R191, R192, R35). -/
def Obligations.StepKeepsTheInvariant : Prop :=
  ∀ s s' : State, s.Inv → step s = .next s' → s'.Inv

/-- R20: H changes only by an add-back, by INIT, by a write to an H register, and by reset. -/
def Obligations.RunningStateChangesOnlyByItsFourWriters : Prop :=
  ∀ s s' : State, step s = .next s' → s'.H ≠ s.H →
    (∃ rest, s.pending = .reset :: rest) ∨
    (∃ a rest i, s.pending = .access a :: rest ∧ decode s.basePage a = .ok i ∧ s.Q = [] ∧ (i = .init ∨ ∃ j v, i = .wrH j v)) ∨
    (s.Q ≠ [] ∧ s.t.val = 64 ∧ (s.pending = [] ∨ ∃ rest, s.pending = .engine :: rest))

/-- R24 and R25: M[i] and DATA_IN change only by an accepted write to them, and by reset. BASE, which is the platform's, never changes, a reset
event among the steps (the model's choice, logs 2 and 10). -/
def Obligations.InputRegistersChangeOnlyByTheirWrites : Prop :=
  (∀ s s' : State, step s = .next s' → (∀ rest, s.pending ≠ .reset :: rest) →
    (∀ i : Fin 16, s'.M[i] ≠ s.M[i] →
      ∃ a rest v, s.pending = .access a :: rest ∧ decode s.basePage a = .ok (.wrM i v) ∧ s.Q = [] ∧ s'.M[i] = v) ∧
    (s'.dataIn ≠ s.dataIn →
      ∃ a rest v, s.pending = .access a :: rest ∧ decode s.basePage a = .ok (.wrDataIn v) ∧ s.Q = [] ∧ s'.dataIn = v)) ∧
  (∀ s s' : State, step s = .next s' → s'.basePage = s.basePage)

/-- R34: DV is set only by the completion of a job that a FINAL started, and cleared only by INIT, COMPRESS, an H write and reset. -/
def Obligations.DigestValidIsSetAndClearedAsStated : Prop :=
  (∀ s s' : State, step s = .next s' → s.dv = false → s'.dv = true →
    s.setdv = true ∧ s.t.val = 64 ∧ s.Q.length = 1 ∧ s'.Q = [] ∧ (s.pending = [] ∨ ∃ rest, s.pending = .engine :: rest)) ∧
  (∀ s s' : State, step s = .next s' → s.dv = true → s'.dv = false →
    (∃ rest, s.pending = .reset :: rest) ∨
    (∃ a rest i, s.pending = .access a :: rest ∧ decode s.basePage a = .ok i ∧ s.Q = [] ∧
      (i = .init ∨ i = .compress ∨ ∃ j v, i = .wrH j v)))

/-- R27 and R231: PHASE becomes FINALIZED only by FINAL, ERROR only by an APPEND that is InputTooLarge, and goes back to ABSORB only by INIT
and reset. -/
def Obligations.PhaseChangesAsStated : Prop :=
  ∀ s s' : State, step s = .next s' → s'.phase ≠ s.phase →
    (∃ rest, s.pending = .reset :: rest) ∨
    (∃ a rest i, s.pending = .access a :: rest ∧ decode s.basePage a = .ok i ∧ s.Q = [] ∧
      ((i = .init ∧ s'.phase = .absorb) ∨ (i = .final ∧ s.phase = .absorb ∧ s'.phase = .finalized) ∨
        ((∃ n, i = appendInstr n ∧ 2 ^ 61 ≤ s.msglen.toNat + n.toNat) ∧ s.phase = .absorb ∧ s'.phase = .error ∧ s'.errTooLarge = true)))

/-- R35, R231 and R232: an error flag, once set, and CAUSE, once not 0, stay until INIT or reset; no step raises two errors. -/
def Obligations.ErrorsStayUntilInitOrReset : Prop :=
  ∀ s s' : State, step s = .next s' → (∀ rest, s.pending ≠ .reset :: rest) →
    (∀ a rest, s.pending = .access a :: rest → decode s.basePage a ≠ .ok .init) →
    (∀ c, s.errorFlag c = true → s'.errorFlag c = true) ∧
    (∀ c, s.cause = some c → s'.cause = some c) ∧
    (∀ c c', s.errorFlag c = false → s'.errorFlag c = true → s.errorFlag c' = false → s'.errorFlag c' = true → c = c')

/-- R46 and R173: while DV = 0 every DIGEST and HEX register reads 0; under the invariant that is so during every job and in ERROR. -/
def Obligations.NoPartialDigest : Prop :=
  (∀ s : State, s.dv = false →
    (∀ i : Fin 8, exec (.rdDigest i) s = .next { s with response := .data 0 }) ∧
    (∀ k : Fin 16, exec (.rdHex k) s = .next { s with response := .data 0 })) ∧
  (∀ s : State, s.Inv → s.Q ≠ [] ∨ s.phase ≠ .finalized → s.dv = false)

/-- R21, R22, R31 and R45: an idle machine never shows its working variables, its window or t: from two states that differ only in those, every
step answers the same but for those, and the same altogether once a job is pending. -/
def Obligations.HiddenStateIsNeverObserved : Prop :=
  ∀ s s' : State, HiddenEq s s' → HiddenEqAnswer (step s) (step s')
end

