-- ==== Sys2Proof/Laws/State.lean ====
section
/-! SUPPORT. One lemma per field per named update of State, true by rfl (by cases on the error for the two that depend on it, and on the
queue for load). -/

namespace Sys2Proof.Machine

variable (s : State)

/-! ### respond -/

@[simp] theorem State.respond_H (r : BusResponse) : (s.respond r).H = s.H := rfl
@[simp] theorem State.respond_working (r : BusResponse) : (s.respond r).working = s.working := rfl
@[simp] theorem State.respond_window (r : BusResponse) : (s.respond r).window = s.window := rfl
@[simp] theorem State.respond_M (r : BusResponse) : (s.respond r).M = s.M := rfl
@[simp] theorem State.respond_dataIn (r : BusResponse) : (s.respond r).dataIn = s.dataIn := rfl
@[simp] theorem State.respond_buf (r : BusResponse) : (s.respond r).buf = s.buf := rfl
@[simp] theorem State.respond_phase (r : BusResponse) : (s.respond r).phase = s.phase := rfl
@[simp] theorem State.respond_msglen (r : BusResponse) : (s.respond r).msglen = s.msglen := rfl
@[simp] theorem State.respond_Q (r : BusResponse) : (s.respond r).Q = s.Q := rfl
@[simp] theorem State.respond_setdv (r : BusResponse) : (s.respond r).setdv = s.setdv := rfl
@[simp] theorem State.respond_t (r : BusResponse) : (s.respond r).t = s.t := rfl
@[simp] theorem State.respond_dv (r : BusResponse) : (s.respond r).dv = s.dv := rfl
@[simp] theorem State.respond_errIllegal (r : BusResponse) : (s.respond r).errIllegal = s.errIllegal := rfl
@[simp] theorem State.respond_errBusy (r : BusResponse) : (s.respond r).errBusy = s.errBusy := rfl
@[simp] theorem State.respond_errSeq (r : BusResponse) : (s.respond r).errSeq = s.errSeq := rfl
@[simp] theorem State.respond_errTooLarge (r : BusResponse) : (s.respond r).errTooLarge = s.errTooLarge := rfl
@[simp] theorem State.respond_cause (r : BusResponse) : (s.respond r).cause = s.cause := rfl
@[simp] theorem State.respond_response (r : BusResponse) : (s.respond r).response = r := rfl
@[simp] theorem State.respond_basePage (r : BusResponse) : (s.respond r).basePage = s.basePage := rfl
@[simp] theorem State.respond_pending (r : BusResponse) : (s.respond r).pending = s.pending := rfl
@[simp] theorem State.respond_freeDraws (r : BusResponse) : (s.respond r).freeDraws = s.freeDraws := rfl

/-! ### acknowledge -/

@[simp] theorem State.acknowledge_H : (s.acknowledge).H = s.H := rfl
@[simp] theorem State.acknowledge_working : (s.acknowledge).working = s.working := rfl
@[simp] theorem State.acknowledge_window : (s.acknowledge).window = s.window := rfl
@[simp] theorem State.acknowledge_M : (s.acknowledge).M = s.M := rfl
@[simp] theorem State.acknowledge_dataIn : (s.acknowledge).dataIn = s.dataIn := rfl
@[simp] theorem State.acknowledge_buf : (s.acknowledge).buf = s.buf := rfl
@[simp] theorem State.acknowledge_phase : (s.acknowledge).phase = s.phase := rfl
@[simp] theorem State.acknowledge_msglen : (s.acknowledge).msglen = s.msglen := rfl
@[simp] theorem State.acknowledge_Q : (s.acknowledge).Q = s.Q := rfl
@[simp] theorem State.acknowledge_setdv : (s.acknowledge).setdv = s.setdv := rfl
@[simp] theorem State.acknowledge_t : (s.acknowledge).t = s.t := rfl
@[simp] theorem State.acknowledge_dv : (s.acknowledge).dv = s.dv := rfl
@[simp] theorem State.acknowledge_errIllegal : (s.acknowledge).errIllegal = s.errIllegal := rfl
@[simp] theorem State.acknowledge_errBusy : (s.acknowledge).errBusy = s.errBusy := rfl
@[simp] theorem State.acknowledge_errSeq : (s.acknowledge).errSeq = s.errSeq := rfl
@[simp] theorem State.acknowledge_errTooLarge : (s.acknowledge).errTooLarge = s.errTooLarge := rfl
@[simp] theorem State.acknowledge_cause : (s.acknowledge).cause = s.cause := rfl
@[simp] theorem State.acknowledge_response : (s.acknowledge).response = .okay := rfl
@[simp] theorem State.acknowledge_basePage : (s.acknowledge).basePage = s.basePage := rfl
@[simp] theorem State.acknowledge_pending : (s.acknowledge).pending = s.pending := rfl
@[simp] theorem State.acknowledge_freeDraws : (s.acknowledge).freeDraws = s.freeDraws := rfl

/-! ### draw -/

@[simp] theorem State.draw_H : (s.draw).H = s.H := rfl
@[simp] theorem State.draw_working : (s.draw).working = s.working := rfl
@[simp] theorem State.draw_window : (s.draw).window = s.window := rfl
@[simp] theorem State.draw_M : (s.draw).M = s.M := rfl
@[simp] theorem State.draw_dataIn : (s.draw).dataIn = s.dataIn := rfl
@[simp] theorem State.draw_buf : (s.draw).buf = s.buf := rfl
@[simp] theorem State.draw_phase : (s.draw).phase = s.phase := rfl
@[simp] theorem State.draw_msglen : (s.draw).msglen = s.msglen := rfl
@[simp] theorem State.draw_Q : (s.draw).Q = s.Q := rfl
@[simp] theorem State.draw_setdv : (s.draw).setdv = s.setdv := rfl
@[simp] theorem State.draw_t : (s.draw).t = s.t := rfl
@[simp] theorem State.draw_dv : (s.draw).dv = s.dv := rfl
@[simp] theorem State.draw_errIllegal : (s.draw).errIllegal = s.errIllegal := rfl
@[simp] theorem State.draw_errBusy : (s.draw).errBusy = s.errBusy := rfl
@[simp] theorem State.draw_errSeq : (s.draw).errSeq = s.errSeq := rfl
@[simp] theorem State.draw_errTooLarge : (s.draw).errTooLarge = s.errTooLarge := rfl
@[simp] theorem State.draw_cause : (s.draw).cause = s.cause := rfl
@[simp] theorem State.draw_response : (s.draw).response = s.response := rfl
@[simp] theorem State.draw_basePage : (s.draw).basePage = s.basePage := rfl
@[simp] theorem State.draw_pending : (s.draw).pending = s.pending := rfl
@[simp] theorem State.draw_freeDraws : (s.draw).freeDraws = s.freeDraws + 1 := rfl

/-! ### clearErrors -/

@[simp] theorem State.clearErrors_H : (s.clearErrors).H = s.H := rfl
@[simp] theorem State.clearErrors_working : (s.clearErrors).working = s.working := rfl
@[simp] theorem State.clearErrors_window : (s.clearErrors).window = s.window := rfl
@[simp] theorem State.clearErrors_M : (s.clearErrors).M = s.M := rfl
@[simp] theorem State.clearErrors_dataIn : (s.clearErrors).dataIn = s.dataIn := rfl
@[simp] theorem State.clearErrors_buf : (s.clearErrors).buf = s.buf := rfl
@[simp] theorem State.clearErrors_phase : (s.clearErrors).phase = s.phase := rfl
@[simp] theorem State.clearErrors_msglen : (s.clearErrors).msglen = s.msglen := rfl
@[simp] theorem State.clearErrors_Q : (s.clearErrors).Q = s.Q := rfl
@[simp] theorem State.clearErrors_setdv : (s.clearErrors).setdv = s.setdv := rfl
@[simp] theorem State.clearErrors_t : (s.clearErrors).t = s.t := rfl
@[simp] theorem State.clearErrors_dv : (s.clearErrors).dv = s.dv := rfl
@[simp] theorem State.clearErrors_errIllegal : (s.clearErrors).errIllegal = false := rfl
@[simp] theorem State.clearErrors_errBusy : (s.clearErrors).errBusy = false := rfl
@[simp] theorem State.clearErrors_errSeq : (s.clearErrors).errSeq = false := rfl
@[simp] theorem State.clearErrors_errTooLarge : (s.clearErrors).errTooLarge = false := rfl
@[simp] theorem State.clearErrors_cause : (s.clearErrors).cause = none := rfl
@[simp] theorem State.clearErrors_response : (s.clearErrors).response = s.response := rfl
@[simp] theorem State.clearErrors_basePage : (s.clearErrors).basePage = s.basePage := rfl
@[simp] theorem State.clearErrors_pending : (s.clearErrors).pending = s.pending := rfl
@[simp] theorem State.clearErrors_freeDraws : (s.clearErrors).freeDraws = s.freeDraws := rfl

/-! ### writeH -/

@[simp] theorem State.writeH_H (i : Fin 8) (v : Word) : (s.writeH i v).H = s.H.set i v := rfl
@[simp] theorem State.writeH_working (i : Fin 8) (v : Word) : (s.writeH i v).working = s.working := rfl
@[simp] theorem State.writeH_window (i : Fin 8) (v : Word) : (s.writeH i v).window = s.window := rfl
@[simp] theorem State.writeH_M (i : Fin 8) (v : Word) : (s.writeH i v).M = s.M := rfl
@[simp] theorem State.writeH_dataIn (i : Fin 8) (v : Word) : (s.writeH i v).dataIn = s.dataIn := rfl
@[simp] theorem State.writeH_buf (i : Fin 8) (v : Word) : (s.writeH i v).buf = s.buf := rfl
@[simp] theorem State.writeH_phase (i : Fin 8) (v : Word) : (s.writeH i v).phase = s.phase := rfl
@[simp] theorem State.writeH_msglen (i : Fin 8) (v : Word) : (s.writeH i v).msglen = s.msglen := rfl
@[simp] theorem State.writeH_Q (i : Fin 8) (v : Word) : (s.writeH i v).Q = s.Q := rfl
@[simp] theorem State.writeH_setdv (i : Fin 8) (v : Word) : (s.writeH i v).setdv = s.setdv := rfl
@[simp] theorem State.writeH_t (i : Fin 8) (v : Word) : (s.writeH i v).t = s.t := rfl
@[simp] theorem State.writeH_dv (i : Fin 8) (v : Word) : (s.writeH i v).dv = false := rfl
@[simp] theorem State.writeH_errIllegal (i : Fin 8) (v : Word) : (s.writeH i v).errIllegal = s.errIllegal := rfl
@[simp] theorem State.writeH_errBusy (i : Fin 8) (v : Word) : (s.writeH i v).errBusy = s.errBusy := rfl
@[simp] theorem State.writeH_errSeq (i : Fin 8) (v : Word) : (s.writeH i v).errSeq = s.errSeq := rfl
@[simp] theorem State.writeH_errTooLarge (i : Fin 8) (v : Word) : (s.writeH i v).errTooLarge = s.errTooLarge := rfl
@[simp] theorem State.writeH_cause (i : Fin 8) (v : Word) : (s.writeH i v).cause = s.cause := rfl
@[simp] theorem State.writeH_response (i : Fin 8) (v : Word) : (s.writeH i v).response = s.response := rfl
@[simp] theorem State.writeH_basePage (i : Fin 8) (v : Word) : (s.writeH i v).basePage = s.basePage := rfl
@[simp] theorem State.writeH_pending (i : Fin 8) (v : Word) : (s.writeH i v).pending = s.pending := rfl
@[simp] theorem State.writeH_freeDraws (i : Fin 8) (v : Word) : (s.writeH i v).freeDraws = s.freeDraws := rfl

/-! ### writeM -/

@[simp] theorem State.writeM_H (i : Fin 16) (v : Word) : (s.writeM i v).H = s.H := rfl
@[simp] theorem State.writeM_working (i : Fin 16) (v : Word) : (s.writeM i v).working = s.working := rfl
@[simp] theorem State.writeM_window (i : Fin 16) (v : Word) : (s.writeM i v).window = s.window := rfl
@[simp] theorem State.writeM_M (i : Fin 16) (v : Word) : (s.writeM i v).M = s.M.set i v := rfl
@[simp] theorem State.writeM_dataIn (i : Fin 16) (v : Word) : (s.writeM i v).dataIn = s.dataIn := rfl
@[simp] theorem State.writeM_buf (i : Fin 16) (v : Word) : (s.writeM i v).buf = s.buf := rfl
@[simp] theorem State.writeM_phase (i : Fin 16) (v : Word) : (s.writeM i v).phase = s.phase := rfl
@[simp] theorem State.writeM_msglen (i : Fin 16) (v : Word) : (s.writeM i v).msglen = s.msglen := rfl
@[simp] theorem State.writeM_Q (i : Fin 16) (v : Word) : (s.writeM i v).Q = s.Q := rfl
@[simp] theorem State.writeM_setdv (i : Fin 16) (v : Word) : (s.writeM i v).setdv = s.setdv := rfl
@[simp] theorem State.writeM_t (i : Fin 16) (v : Word) : (s.writeM i v).t = s.t := rfl
@[simp] theorem State.writeM_dv (i : Fin 16) (v : Word) : (s.writeM i v).dv = s.dv := rfl
@[simp] theorem State.writeM_errIllegal (i : Fin 16) (v : Word) : (s.writeM i v).errIllegal = s.errIllegal := rfl
@[simp] theorem State.writeM_errBusy (i : Fin 16) (v : Word) : (s.writeM i v).errBusy = s.errBusy := rfl
@[simp] theorem State.writeM_errSeq (i : Fin 16) (v : Word) : (s.writeM i v).errSeq = s.errSeq := rfl
@[simp] theorem State.writeM_errTooLarge (i : Fin 16) (v : Word) : (s.writeM i v).errTooLarge = s.errTooLarge := rfl
@[simp] theorem State.writeM_cause (i : Fin 16) (v : Word) : (s.writeM i v).cause = s.cause := rfl
@[simp] theorem State.writeM_response (i : Fin 16) (v : Word) : (s.writeM i v).response = s.response := rfl
@[simp] theorem State.writeM_basePage (i : Fin 16) (v : Word) : (s.writeM i v).basePage = s.basePage := rfl
@[simp] theorem State.writeM_pending (i : Fin 16) (v : Word) : (s.writeM i v).pending = s.pending := rfl
@[simp] theorem State.writeM_freeDraws (i : Fin 16) (v : Word) : (s.writeM i v).freeDraws = s.freeDraws := rfl

/-! ### writeDataIn -/

@[simp] theorem State.writeDataIn_H (v : Word) : (s.writeDataIn v).H = s.H := rfl
@[simp] theorem State.writeDataIn_working (v : Word) : (s.writeDataIn v).working = s.working := rfl
@[simp] theorem State.writeDataIn_window (v : Word) : (s.writeDataIn v).window = s.window := rfl
@[simp] theorem State.writeDataIn_M (v : Word) : (s.writeDataIn v).M = s.M := rfl
@[simp] theorem State.writeDataIn_dataIn (v : Word) : (s.writeDataIn v).dataIn = v := rfl
@[simp] theorem State.writeDataIn_buf (v : Word) : (s.writeDataIn v).buf = s.buf := rfl
@[simp] theorem State.writeDataIn_phase (v : Word) : (s.writeDataIn v).phase = s.phase := rfl
@[simp] theorem State.writeDataIn_msglen (v : Word) : (s.writeDataIn v).msglen = s.msglen := rfl
@[simp] theorem State.writeDataIn_Q (v : Word) : (s.writeDataIn v).Q = s.Q := rfl
@[simp] theorem State.writeDataIn_setdv (v : Word) : (s.writeDataIn v).setdv = s.setdv := rfl
@[simp] theorem State.writeDataIn_t (v : Word) : (s.writeDataIn v).t = s.t := rfl
@[simp] theorem State.writeDataIn_dv (v : Word) : (s.writeDataIn v).dv = s.dv := rfl
@[simp] theorem State.writeDataIn_errIllegal (v : Word) : (s.writeDataIn v).errIllegal = s.errIllegal := rfl
@[simp] theorem State.writeDataIn_errBusy (v : Word) : (s.writeDataIn v).errBusy = s.errBusy := rfl
@[simp] theorem State.writeDataIn_errSeq (v : Word) : (s.writeDataIn v).errSeq = s.errSeq := rfl
@[simp] theorem State.writeDataIn_errTooLarge (v : Word) : (s.writeDataIn v).errTooLarge = s.errTooLarge := rfl
@[simp] theorem State.writeDataIn_cause (v : Word) : (s.writeDataIn v).cause = s.cause := rfl
@[simp] theorem State.writeDataIn_response (v : Word) : (s.writeDataIn v).response = s.response := rfl
@[simp] theorem State.writeDataIn_basePage (v : Word) : (s.writeDataIn v).basePage = s.basePage := rfl
@[simp] theorem State.writeDataIn_pending (v : Word) : (s.writeDataIn v).pending = s.pending := rfl
@[simp] theorem State.writeDataIn_freeDraws (v : Word) : (s.writeDataIn v).freeDraws = s.freeDraws := rfl

/-! ### takeByte -/

@[simp] theorem State.takeByte_H (b : Byte) : (s.takeByte b).H = s.H := rfl
@[simp] theorem State.takeByte_working (b : Byte) : (s.takeByte b).working = s.working := rfl
@[simp] theorem State.takeByte_window (b : Byte) : (s.takeByte b).window = s.window := rfl
@[simp] theorem State.takeByte_M (b : Byte) : (s.takeByte b).M = s.M := rfl
@[simp] theorem State.takeByte_dataIn (b : Byte) : (s.takeByte b).dataIn = s.dataIn := rfl
@[simp] theorem State.takeByte_buf (b : Byte) : (s.takeByte b).buf = s.buf ++ [b] := rfl
@[simp] theorem State.takeByte_phase (b : Byte) : (s.takeByte b).phase = s.phase := rfl
@[simp] theorem State.takeByte_msglen (b : Byte) : (s.takeByte b).msglen = s.msglen + 1 := rfl
@[simp] theorem State.takeByte_Q (b : Byte) : (s.takeByte b).Q = s.Q := rfl
@[simp] theorem State.takeByte_setdv (b : Byte) : (s.takeByte b).setdv = s.setdv := rfl
@[simp] theorem State.takeByte_t (b : Byte) : (s.takeByte b).t = s.t := rfl
@[simp] theorem State.takeByte_dv (b : Byte) : (s.takeByte b).dv = s.dv := rfl
@[simp] theorem State.takeByte_errIllegal (b : Byte) : (s.takeByte b).errIllegal = s.errIllegal := rfl
@[simp] theorem State.takeByte_errBusy (b : Byte) : (s.takeByte b).errBusy = s.errBusy := rfl
@[simp] theorem State.takeByte_errSeq (b : Byte) : (s.takeByte b).errSeq = s.errSeq := rfl
@[simp] theorem State.takeByte_errTooLarge (b : Byte) : (s.takeByte b).errTooLarge = s.errTooLarge := rfl
@[simp] theorem State.takeByte_cause (b : Byte) : (s.takeByte b).cause = s.cause := rfl
@[simp] theorem State.takeByte_response (b : Byte) : (s.takeByte b).response = s.response := rfl
@[simp] theorem State.takeByte_basePage (b : Byte) : (s.takeByte b).basePage = s.basePage := rfl
@[simp] theorem State.takeByte_pending (b : Byte) : (s.takeByte b).pending = s.pending := rfl
@[simp] theorem State.takeByte_freeDraws (b : Byte) : (s.takeByte b).freeDraws = s.freeDraws := rfl

/-! ### enqueue -/

@[simp] theorem State.enqueue_H (bs : List Block) : (s.enqueue bs).H = s.H := rfl
@[simp] theorem State.enqueue_working (bs : List Block) : (s.enqueue bs).working = s.working := rfl
@[simp] theorem State.enqueue_window (bs : List Block) : (s.enqueue bs).window = s.window := rfl
@[simp] theorem State.enqueue_M (bs : List Block) : (s.enqueue bs).M = s.M := rfl
@[simp] theorem State.enqueue_dataIn (bs : List Block) : (s.enqueue bs).dataIn = s.dataIn := rfl
@[simp] theorem State.enqueue_buf (bs : List Block) : (s.enqueue bs).buf = s.buf := rfl
@[simp] theorem State.enqueue_phase (bs : List Block) : (s.enqueue bs).phase = s.phase := rfl
@[simp] theorem State.enqueue_msglen (bs : List Block) : (s.enqueue bs).msglen = s.msglen := rfl
@[simp] theorem State.enqueue_Q (bs : List Block) : (s.enqueue bs).Q = s.Q ++ bs := rfl
@[simp] theorem State.enqueue_setdv (bs : List Block) : (s.enqueue bs).setdv = s.setdv := rfl
@[simp] theorem State.enqueue_t (bs : List Block) : (s.enqueue bs).t = s.t := rfl
@[simp] theorem State.enqueue_dv (bs : List Block) : (s.enqueue bs).dv = s.dv := rfl
@[simp] theorem State.enqueue_errIllegal (bs : List Block) : (s.enqueue bs).errIllegal = s.errIllegal := rfl
@[simp] theorem State.enqueue_errBusy (bs : List Block) : (s.enqueue bs).errBusy = s.errBusy := rfl
@[simp] theorem State.enqueue_errSeq (bs : List Block) : (s.enqueue bs).errSeq = s.errSeq := rfl
@[simp] theorem State.enqueue_errTooLarge (bs : List Block) : (s.enqueue bs).errTooLarge = s.errTooLarge := rfl
@[simp] theorem State.enqueue_cause (bs : List Block) : (s.enqueue bs).cause = s.cause := rfl
@[simp] theorem State.enqueue_response (bs : List Block) : (s.enqueue bs).response = s.response := rfl
@[simp] theorem State.enqueue_basePage (bs : List Block) : (s.enqueue bs).basePage = s.basePage := rfl
@[simp] theorem State.enqueue_pending (bs : List Block) : (s.enqueue bs).pending = s.pending := rfl
@[simp] theorem State.enqueue_freeDraws (bs : List Block) : (s.enqueue bs).freeDraws = s.freeDraws := rfl

/-! ### emptyBuf -/

@[simp] theorem State.emptyBuf_H : (s.emptyBuf).H = s.H := rfl
@[simp] theorem State.emptyBuf_working : (s.emptyBuf).working = s.working := rfl
@[simp] theorem State.emptyBuf_window : (s.emptyBuf).window = s.window := rfl
@[simp] theorem State.emptyBuf_M : (s.emptyBuf).M = s.M := rfl
@[simp] theorem State.emptyBuf_dataIn : (s.emptyBuf).dataIn = s.dataIn := rfl
@[simp] theorem State.emptyBuf_buf : (s.emptyBuf).buf = [] := rfl
@[simp] theorem State.emptyBuf_phase : (s.emptyBuf).phase = s.phase := rfl
@[simp] theorem State.emptyBuf_msglen : (s.emptyBuf).msglen = s.msglen := rfl
@[simp] theorem State.emptyBuf_Q : (s.emptyBuf).Q = s.Q := rfl
@[simp] theorem State.emptyBuf_setdv : (s.emptyBuf).setdv = s.setdv := rfl
@[simp] theorem State.emptyBuf_t : (s.emptyBuf).t = s.t := rfl
@[simp] theorem State.emptyBuf_dv : (s.emptyBuf).dv = s.dv := rfl
@[simp] theorem State.emptyBuf_errIllegal : (s.emptyBuf).errIllegal = s.errIllegal := rfl
@[simp] theorem State.emptyBuf_errBusy : (s.emptyBuf).errBusy = s.errBusy := rfl
@[simp] theorem State.emptyBuf_errSeq : (s.emptyBuf).errSeq = s.errSeq := rfl
@[simp] theorem State.emptyBuf_errTooLarge : (s.emptyBuf).errTooLarge = s.errTooLarge := rfl
@[simp] theorem State.emptyBuf_cause : (s.emptyBuf).cause = s.cause := rfl
@[simp] theorem State.emptyBuf_response : (s.emptyBuf).response = s.response := rfl
@[simp] theorem State.emptyBuf_basePage : (s.emptyBuf).basePage = s.basePage := rfl
@[simp] theorem State.emptyBuf_pending : (s.emptyBuf).pending = s.pending := rfl
@[simp] theorem State.emptyBuf_freeDraws : (s.emptyBuf).freeDraws = s.freeDraws := rfl

/-! ### roundStep -/

@[simp] theorem State.roundStep_H (h : s.t.val < Config.rounds) : (s.roundStep h).H = s.H := rfl
@[simp] theorem State.roundStep_working (h : s.t.val < Config.rounds) : (s.roundStep h).working = mixRound s.working (roundConstant ⟨s.t.val, h⟩) s.window[0] := rfl
@[simp] theorem State.roundStep_window (h : s.t.val < Config.rounds) : (s.roundStep h).window = windowStep s.window := rfl
@[simp] theorem State.roundStep_M (h : s.t.val < Config.rounds) : (s.roundStep h).M = s.M := rfl
@[simp] theorem State.roundStep_dataIn (h : s.t.val < Config.rounds) : (s.roundStep h).dataIn = s.dataIn := rfl
@[simp] theorem State.roundStep_buf (h : s.t.val < Config.rounds) : (s.roundStep h).buf = s.buf := rfl
@[simp] theorem State.roundStep_phase (h : s.t.val < Config.rounds) : (s.roundStep h).phase = s.phase := rfl
@[simp] theorem State.roundStep_msglen (h : s.t.val < Config.rounds) : (s.roundStep h).msglen = s.msglen := rfl
@[simp] theorem State.roundStep_Q (h : s.t.val < Config.rounds) : (s.roundStep h).Q = s.Q := rfl
@[simp] theorem State.roundStep_setdv (h : s.t.val < Config.rounds) : (s.roundStep h).setdv = s.setdv := rfl
@[simp] theorem State.roundStep_t (h : s.t.val < Config.rounds) : (s.roundStep h).t = ⟨s.t.val + 1, Nat.succ_lt_succ h⟩ := rfl
@[simp] theorem State.roundStep_dv (h : s.t.val < Config.rounds) : (s.roundStep h).dv = s.dv := rfl
@[simp] theorem State.roundStep_errIllegal (h : s.t.val < Config.rounds) : (s.roundStep h).errIllegal = s.errIllegal := rfl
@[simp] theorem State.roundStep_errBusy (h : s.t.val < Config.rounds) : (s.roundStep h).errBusy = s.errBusy := rfl
@[simp] theorem State.roundStep_errSeq (h : s.t.val < Config.rounds) : (s.roundStep h).errSeq = s.errSeq := rfl
@[simp] theorem State.roundStep_errTooLarge (h : s.t.val < Config.rounds) : (s.roundStep h).errTooLarge = s.errTooLarge := rfl
@[simp] theorem State.roundStep_cause (h : s.t.val < Config.rounds) : (s.roundStep h).cause = s.cause := rfl
@[simp] theorem State.roundStep_response (h : s.t.val < Config.rounds) : (s.roundStep h).response = s.response := rfl
@[simp] theorem State.roundStep_basePage (h : s.t.val < Config.rounds) : (s.roundStep h).basePage = s.basePage := rfl
@[simp] theorem State.roundStep_pending (h : s.t.val < Config.rounds) : (s.roundStep h).pending = s.pending := rfl
@[simp] theorem State.roundStep_freeDraws (h : s.t.val < Config.rounds) : (s.roundStep h).freeDraws = s.freeDraws := rfl

/-! ### complete -/

@[simp] theorem State.complete_H : (s.complete).H = s.H := rfl
@[simp] theorem State.complete_working : (s.complete).working = s.working := rfl
@[simp] theorem State.complete_window : (s.complete).window = s.window := rfl
@[simp] theorem State.complete_M : (s.complete).M = s.M := rfl
@[simp] theorem State.complete_dataIn : (s.complete).dataIn = s.dataIn := rfl
@[simp] theorem State.complete_buf : (s.complete).buf = s.buf := rfl
@[simp] theorem State.complete_phase : (s.complete).phase = s.phase := rfl
@[simp] theorem State.complete_msglen : (s.complete).msglen = s.msglen := rfl
@[simp] theorem State.complete_Q : (s.complete).Q = s.Q := rfl
@[simp] theorem State.complete_setdv : (s.complete).setdv = false := rfl
@[simp] theorem State.complete_t : (s.complete).t = s.t := rfl
@[simp] theorem State.complete_dv : (s.complete).dv = (s.dv || s.setdv) := rfl
@[simp] theorem State.complete_errIllegal : (s.complete).errIllegal = s.errIllegal := rfl
@[simp] theorem State.complete_errBusy : (s.complete).errBusy = s.errBusy := rfl
@[simp] theorem State.complete_errSeq : (s.complete).errSeq = s.errSeq := rfl
@[simp] theorem State.complete_errTooLarge : (s.complete).errTooLarge = s.errTooLarge := rfl
@[simp] theorem State.complete_cause : (s.complete).cause = s.cause := rfl
@[simp] theorem State.complete_response : (s.complete).response = s.response := rfl
@[simp] theorem State.complete_basePage : (s.complete).basePage = s.basePage := rfl
@[simp] theorem State.complete_pending : (s.complete).pending = s.pending := rfl
@[simp] theorem State.complete_freeDraws : (s.complete).freeDraws = s.freeDraws := rfl

/-! ### foldHead -/

@[simp] theorem State.foldHead_H : (s.foldHead).H = addBack s.H s.working := rfl
@[simp] theorem State.foldHead_working : (s.foldHead).working = s.working := rfl
@[simp] theorem State.foldHead_window : (s.foldHead).window = s.window := rfl
@[simp] theorem State.foldHead_M : (s.foldHead).M = s.M := rfl
@[simp] theorem State.foldHead_dataIn : (s.foldHead).dataIn = s.dataIn := rfl
@[simp] theorem State.foldHead_buf : (s.foldHead).buf = s.buf := rfl
@[simp] theorem State.foldHead_phase : (s.foldHead).phase = s.phase := rfl
@[simp] theorem State.foldHead_msglen : (s.foldHead).msglen = s.msglen := rfl
@[simp] theorem State.foldHead_Q : (s.foldHead).Q = s.Q.tail := rfl
@[simp] theorem State.foldHead_setdv : (s.foldHead).setdv = s.setdv := rfl
@[simp] theorem State.foldHead_t : (s.foldHead).t = s.t := rfl
@[simp] theorem State.foldHead_dv : (s.foldHead).dv = s.dv := rfl
@[simp] theorem State.foldHead_errIllegal : (s.foldHead).errIllegal = s.errIllegal := rfl
@[simp] theorem State.foldHead_errBusy : (s.foldHead).errBusy = s.errBusy := rfl
@[simp] theorem State.foldHead_errSeq : (s.foldHead).errSeq = s.errSeq := rfl
@[simp] theorem State.foldHead_errTooLarge : (s.foldHead).errTooLarge = s.errTooLarge := rfl
@[simp] theorem State.foldHead_cause : (s.foldHead).cause = s.cause := rfl
@[simp] theorem State.foldHead_response : (s.foldHead).response = s.response := rfl
@[simp] theorem State.foldHead_basePage : (s.foldHead).basePage = s.basePage := rfl
@[simp] theorem State.foldHead_pending : (s.foldHead).pending = s.pending := rfl
@[simp] theorem State.foldHead_freeDraws : (s.foldHead).freeDraws = s.freeDraws := rfl

/-! ### takeEvent -/

@[simp] theorem State.takeEvent_H (rest : List Event) : (s.takeEvent rest).H = s.H := rfl
@[simp] theorem State.takeEvent_working (rest : List Event) : (s.takeEvent rest).working = s.working := rfl
@[simp] theorem State.takeEvent_window (rest : List Event) : (s.takeEvent rest).window = s.window := rfl
@[simp] theorem State.takeEvent_M (rest : List Event) : (s.takeEvent rest).M = s.M := rfl
@[simp] theorem State.takeEvent_dataIn (rest : List Event) : (s.takeEvent rest).dataIn = s.dataIn := rfl
@[simp] theorem State.takeEvent_buf (rest : List Event) : (s.takeEvent rest).buf = s.buf := rfl
@[simp] theorem State.takeEvent_phase (rest : List Event) : (s.takeEvent rest).phase = s.phase := rfl
@[simp] theorem State.takeEvent_msglen (rest : List Event) : (s.takeEvent rest).msglen = s.msglen := rfl
@[simp] theorem State.takeEvent_Q (rest : List Event) : (s.takeEvent rest).Q = s.Q := rfl
@[simp] theorem State.takeEvent_setdv (rest : List Event) : (s.takeEvent rest).setdv = s.setdv := rfl
@[simp] theorem State.takeEvent_t (rest : List Event) : (s.takeEvent rest).t = s.t := rfl
@[simp] theorem State.takeEvent_dv (rest : List Event) : (s.takeEvent rest).dv = s.dv := rfl
@[simp] theorem State.takeEvent_errIllegal (rest : List Event) : (s.takeEvent rest).errIllegal = s.errIllegal := rfl
@[simp] theorem State.takeEvent_errBusy (rest : List Event) : (s.takeEvent rest).errBusy = s.errBusy := rfl
@[simp] theorem State.takeEvent_errSeq (rest : List Event) : (s.takeEvent rest).errSeq = s.errSeq := rfl
@[simp] theorem State.takeEvent_errTooLarge (rest : List Event) : (s.takeEvent rest).errTooLarge = s.errTooLarge := rfl
@[simp] theorem State.takeEvent_cause (rest : List Event) : (s.takeEvent rest).cause = s.cause := rfl
@[simp] theorem State.takeEvent_response (rest : List Event) : (s.takeEvent rest).response = s.response := rfl
@[simp] theorem State.takeEvent_basePage (rest : List Event) : (s.takeEvent rest).basePage = s.basePage := rfl
@[simp] theorem State.takeEvent_pending (rest : List Event) : (s.takeEvent rest).pending = rest := rfl
@[simp] theorem State.takeEvent_freeDraws (rest : List Event) : (s.takeEvent rest).freeDraws = s.freeDraws := rfl

/-! ### placeEvent -/

@[simp] theorem State.placeEvent_H (e : Event) : (s.placeEvent e).H = s.H := rfl
@[simp] theorem State.placeEvent_working (e : Event) : (s.placeEvent e).working = s.working := rfl
@[simp] theorem State.placeEvent_window (e : Event) : (s.placeEvent e).window = s.window := rfl
@[simp] theorem State.placeEvent_M (e : Event) : (s.placeEvent e).M = s.M := rfl
@[simp] theorem State.placeEvent_dataIn (e : Event) : (s.placeEvent e).dataIn = s.dataIn := rfl
@[simp] theorem State.placeEvent_buf (e : Event) : (s.placeEvent e).buf = s.buf := rfl
@[simp] theorem State.placeEvent_phase (e : Event) : (s.placeEvent e).phase = s.phase := rfl
@[simp] theorem State.placeEvent_msglen (e : Event) : (s.placeEvent e).msglen = s.msglen := rfl
@[simp] theorem State.placeEvent_Q (e : Event) : (s.placeEvent e).Q = s.Q := rfl
@[simp] theorem State.placeEvent_setdv (e : Event) : (s.placeEvent e).setdv = s.setdv := rfl
@[simp] theorem State.placeEvent_t (e : Event) : (s.placeEvent e).t = s.t := rfl
@[simp] theorem State.placeEvent_dv (e : Event) : (s.placeEvent e).dv = s.dv := rfl
@[simp] theorem State.placeEvent_errIllegal (e : Event) : (s.placeEvent e).errIllegal = s.errIllegal := rfl
@[simp] theorem State.placeEvent_errBusy (e : Event) : (s.placeEvent e).errBusy = s.errBusy := rfl
@[simp] theorem State.placeEvent_errSeq (e : Event) : (s.placeEvent e).errSeq = s.errSeq := rfl
@[simp] theorem State.placeEvent_errTooLarge (e : Event) : (s.placeEvent e).errTooLarge = s.errTooLarge := rfl
@[simp] theorem State.placeEvent_cause (e : Event) : (s.placeEvent e).cause = s.cause := rfl
@[simp] theorem State.placeEvent_response (e : Event) : (s.placeEvent e).response = s.response := rfl
@[simp] theorem State.placeEvent_basePage (e : Event) : (s.placeEvent e).basePage = s.basePage := rfl
@[simp] theorem State.placeEvent_pending (e : Event) : (s.placeEvent e).pending = e :: s.pending := rfl
@[simp] theorem State.placeEvent_freeDraws (e : Event) : (s.placeEvent e).freeDraws = s.freeDraws := rfl

/-! ### raise -/

@[simp] theorem State.raise_H (c : EngineError) : (s.raise c).H = s.H := by cases c <;> rfl
@[simp] theorem State.raise_working (c : EngineError) : (s.raise c).working = s.working := by cases c <;> rfl
@[simp] theorem State.raise_window (c : EngineError) : (s.raise c).window = s.window := by cases c <;> rfl
@[simp] theorem State.raise_M (c : EngineError) : (s.raise c).M = s.M := by cases c <;> rfl
@[simp] theorem State.raise_dataIn (c : EngineError) : (s.raise c).dataIn = s.dataIn := by cases c <;> rfl
@[simp] theorem State.raise_buf (c : EngineError) : (s.raise c).buf = s.buf := by cases c <;> rfl
@[simp] theorem State.raise_phase (c : EngineError) : (s.raise c).phase = s.phase := by cases c <;> rfl
@[simp] theorem State.raise_msglen (c : EngineError) : (s.raise c).msglen = s.msglen := by cases c <;> rfl
@[simp] theorem State.raise_Q (c : EngineError) : (s.raise c).Q = s.Q := by cases c <;> rfl
@[simp] theorem State.raise_setdv (c : EngineError) : (s.raise c).setdv = s.setdv := by cases c <;> rfl
@[simp] theorem State.raise_t (c : EngineError) : (s.raise c).t = s.t := by cases c <;> rfl
@[simp] theorem State.raise_dv (c : EngineError) : (s.raise c).dv = s.dv := by cases c <;> rfl
@[simp] theorem State.raise_errIllegal (c : EngineError) : (s.raise c).errIllegal = (s.errIllegal || (c == .illegalCmd)) := by cases c <;> simp [State.raise, State.setErrorFlag, State.recordCause]
@[simp] theorem State.raise_errBusy (c : EngineError) : (s.raise c).errBusy = (s.errBusy || (c == .busyWrite)) := by cases c <;> simp [State.raise, State.setErrorFlag, State.recordCause]
@[simp] theorem State.raise_errSeq (c : EngineError) : (s.raise c).errSeq = (s.errSeq || (c == .sequence)) := by cases c <;> simp [State.raise, State.setErrorFlag, State.recordCause]
@[simp] theorem State.raise_errTooLarge (c : EngineError) : (s.raise c).errTooLarge = (s.errTooLarge || (c == .inputTooLarge)) := by cases c <;> simp [State.raise, State.setErrorFlag, State.recordCause]
@[simp] theorem State.raise_cause (c : EngineError) : (s.raise c).cause = some (s.cause.getD c) := by
  cases c <;> cases h : s.cause <;> simp [State.raise, State.setErrorFlag, State.recordCause, h]
@[simp] theorem State.raise_response (c : EngineError) : (s.raise c).response = s.response := by cases c <;> rfl
@[simp] theorem State.raise_basePage (c : EngineError) : (s.raise c).basePage = s.basePage := by cases c <;> rfl
@[simp] theorem State.raise_pending (c : EngineError) : (s.raise c).pending = s.pending := by cases c <;> rfl
@[simp] theorem State.raise_freeDraws (c : EngineError) : (s.raise c).freeDraws = s.freeDraws := by cases c <;> rfl

/-! ### load -/

@[simp] theorem State.load_H : s.load.H = s.H := by unfold State.load; split <;> rfl
@[simp] theorem State.load_M : s.load.M = s.M := by unfold State.load; split <;> rfl
@[simp] theorem State.load_dataIn : s.load.dataIn = s.dataIn := by unfold State.load; split <;> rfl
@[simp] theorem State.load_buf : s.load.buf = s.buf := by unfold State.load; split <;> rfl
@[simp] theorem State.load_phase : s.load.phase = s.phase := by unfold State.load; split <;> rfl
@[simp] theorem State.load_msglen : s.load.msglen = s.msglen := by unfold State.load; split <;> rfl
@[simp] theorem State.load_Q : s.load.Q = s.Q := by unfold State.load; split <;> rfl
@[simp] theorem State.load_setdv : s.load.setdv = s.setdv := by unfold State.load; split <;> rfl
@[simp] theorem State.load_dv : s.load.dv = s.dv := by unfold State.load; split <;> rfl
@[simp] theorem State.load_errIllegal : s.load.errIllegal = s.errIllegal := by unfold State.load; split <;> rfl
@[simp] theorem State.load_errBusy : s.load.errBusy = s.errBusy := by unfold State.load; split <;> rfl
@[simp] theorem State.load_errSeq : s.load.errSeq = s.errSeq := by unfold State.load; split <;> rfl
@[simp] theorem State.load_errTooLarge : s.load.errTooLarge = s.errTooLarge := by unfold State.load; split <;> rfl
@[simp] theorem State.load_cause : s.load.cause = s.cause := by unfold State.load; split <;> rfl
@[simp] theorem State.load_response : s.load.response = s.response := by unfold State.load; split <;> rfl
@[simp] theorem State.load_basePage : s.load.basePage = s.basePage := by unfold State.load; split <;> rfl
@[simp] theorem State.load_pending : s.load.pending = s.pending := by unfold State.load; split <;> rfl
@[simp] theorem State.load_freeDraws : s.load.freeDraws = s.freeDraws := by unfold State.load; split <;> rfl

theorem State.load_nil (h : s.Q = []) : s.load = s := by simp [State.load, h]

theorem State.load_cons (B : Block) (rest : List Block) (h : s.Q = B :: rest) :
    s.load = { s with working := seedWorking s.H, window := B, t := 0 } := by simp [State.load, h]

/-! ### startJob -/

@[simp] theorem State.startJob_H (v : Bool) : (s.startJob v).H = s.H := by simp [State.startJob]
@[simp] theorem State.startJob_M (v : Bool) : (s.startJob v).M = s.M := by simp [State.startJob]
@[simp] theorem State.startJob_dataIn (v : Bool) : (s.startJob v).dataIn = s.dataIn := by simp [State.startJob]
@[simp] theorem State.startJob_buf (v : Bool) : (s.startJob v).buf = s.buf := by simp [State.startJob]
@[simp] theorem State.startJob_phase (v : Bool) : (s.startJob v).phase = s.phase := by simp [State.startJob]
@[simp] theorem State.startJob_msglen (v : Bool) : (s.startJob v).msglen = s.msglen := by simp [State.startJob]
@[simp] theorem State.startJob_Q (v : Bool) : (s.startJob v).Q = s.Q := by simp [State.startJob]
@[simp] theorem State.startJob_setdv (v : Bool) : (s.startJob v).setdv = v := by simp [State.startJob]
@[simp] theorem State.startJob_dv (v : Bool) : (s.startJob v).dv = s.dv := by simp [State.startJob]
@[simp] theorem State.startJob_errIllegal (v : Bool) : (s.startJob v).errIllegal = s.errIllegal := by simp [State.startJob]
@[simp] theorem State.startJob_errBusy (v : Bool) : (s.startJob v).errBusy = s.errBusy := by simp [State.startJob]
@[simp] theorem State.startJob_errSeq (v : Bool) : (s.startJob v).errSeq = s.errSeq := by simp [State.startJob]
@[simp] theorem State.startJob_errTooLarge (v : Bool) : (s.startJob v).errTooLarge = s.errTooLarge := by simp [State.startJob]
@[simp] theorem State.startJob_cause (v : Bool) : (s.startJob v).cause = s.cause := by simp [State.startJob]
@[simp] theorem State.startJob_response (v : Bool) : (s.startJob v).response = s.response := by simp [State.startJob]
@[simp] theorem State.startJob_basePage (v : Bool) : (s.startJob v).basePage = s.basePage := by simp [State.startJob]
@[simp] theorem State.startJob_pending (v : Bool) : (s.startJob v).pending = s.pending := by simp [State.startJob]
@[simp] theorem State.startJob_freeDraws (v : Bool) : (s.startJob v).freeDraws = s.freeDraws := by simp [State.startJob]

/-! ### busy -/

theorem State.busy_eq_false {s : State} : s.busy = false ↔ s.Q = [] := by simp [State.busy]

theorem State.busy_eq_true {s : State} : s.busy = true ↔ s.Q ≠ [] := by simp [State.busy]

end Sys2Proof.Machine
end

