-- ==== Sys2Proof/Laws/Ops.lean ====
section
/-! SUPPORT. What each shared operation can do, once for each: recording an error, the guarded write, padding and parsing, absorbing
bytes, the command path, and the two kinds of engine step. -/

namespace Sys2Proof.Machine

/-! ## Errors and guarded writes -/

theorem raise_illegalCmd (s : State) :
    s.raise .illegalCmd = { s with errIllegal := true, cause := some (s.cause.getD .illegalCmd) } := by
  cases h : s.cause <;> simp [State.raise, State.setErrorFlag, State.recordCause, h]

theorem raise_busyWrite (s : State) :
    s.raise .busyWrite = { s with errBusy := true, cause := some (s.cause.getD .busyWrite) } := by
  cases h : s.cause <;> simp [State.raise, State.setErrorFlag, State.recordCause, h]

theorem raise_sequence (s : State) :
    s.raise .sequence = { s with errSeq := true, cause := some (s.cause.getD .sequence) } := by
  cases h : s.cause <;> simp [State.raise, State.setErrorFlag, State.recordCause, h]

theorem raise_inputTooLarge (s : State) :
    s.raise .inputTooLarge = { s with errTooLarge := true, cause := some (s.cause.getD .inputTooLarge) } := by
  cases h : s.cause <;> simp [State.raise, State.setErrorFlag, State.recordCause, h]

theorem guardedWrite_idle (f : State → State) (s : State) (h : s.Q = []) :
    guardedWrite f s = .next (f s).acknowledge := by simp [guardedWrite, State.busy, h]

theorem guardedWrite_busy (f : State → State) (s : State) (h : s.Q ≠ []) :
    guardedWrite f s = errorAnswer .busyWrite s := by simp [guardedWrite, State.busy_eq_true.mpr h]

/-! ## Bytes, padding and parsing -/

@[simp] theorem length_be64 (v : Nat) : (be64 v).length = 8 := by simp [be64]

@[simp] theorem length_bytesBE32 (w : Word) : (bytesBE32 w).length = 4 := rfl

theorem toNat_be32 (a b c d : Byte) :
    (be32 a b c d).toNat = a.toNat * 2 ^ 24 + b.toNat * 2 ^ 16 + c.toNat * 2 ^ 8 + d.toNat := by
  have := a.isLt
  have := b.isLt
  have := c.isLt
  have := d.isLt
  unfold be32
  simp only [BitVec.toNat_append]
  rw [← Nat.shiftLeft_add_eq_or_of_lt d.isLt, ← Nat.shiftLeft_add_eq_or_of_lt c.isLt, ← Nat.shiftLeft_add_eq_or_of_lt b.isLt]
  simp only [Nat.shiftLeft_eq]
  omega

theorem toNat_wordByte (w : Word) (j : Nat) : (wordByte w j).toNat = w.toNat / 2 ^ (24 - 8 * j) % 256 := by
  simp [wordByte, BitVec.extractLsb'_toNat, Nat.shiftRight_eq_div_pow]

/-- The bytes of a Word read back big-endian are the Word. -/
theorem be32_wordByte (w : Word) : be32 (wordByte w 0) (wordByte w 1) (wordByte w 2) (wordByte w 3) = w := by
  apply BitVec.eq_of_toNat_eq
  have := w.isLt
  rw [toNat_be32]
  simp only [toNat_wordByte]
  omega

theorem padZeros_lt (n : Nat) : padZeros n < 64 := by unfold padZeros; omega

theorem padZeros_fills (n : Nat) : (n + 1 + padZeros n) % 64 = 56 := by unfold padZeros; omega

@[simp] theorem length_padSuffix (n t : Nat) : (padSuffix n t).length = 9 + padZeros n := by
  simp [padSuffix]; omega

theorem length_padTail_mod (buf : List Byte) (n : BitVec 61) : (padTail buf n).length % 64 = 0 := by
  have := padZeros_fills buf.length
  simp [padTail]; omega

theorem parse_of_multiple (p : List Byte) (h : p.length % 64 = 0) :
    parse p = .ok ((List.range (p.length / 64)).map fun j => parseChunk (chunkAt p j)) := by
  simp [parse, h]

theorem parse_of_not_multiple (p : List Byte) (h : p.length % 64 ≠ 0) : parse p = .error .malformedInput := by
  simp [parse, h]

theorem parse_nil : parse [] = .ok [] := rfl

theorem chunkAt_append_left (p q : List Byte) (j : Nat) (h : 64 * j + 64 ≤ p.length) : chunkAt (p ++ q) j = chunkAt p j := by
  unfold chunkAt Config.blockBytes
  rw [List.drop_append_of_le_length (by omega), List.take_append_of_le_length (by simp; omega)]

theorem chunkAt_append_right (p q : List Byte) (k j : Nat) (h : p.length = 64 * k) : chunkAt (p ++ q) (k + j) = chunkAt q j := by
  unfold chunkAt Config.blockBytes
  rw [List.drop_append, List.drop_eq_nil_of_le (by omega), List.nil_append]
  congr 2
  omega

theorem parse_eq_ok (p : List Byte) (bs : List Block) (h : parse p = .ok bs) :
    p.length % 64 = 0 ∧ bs = (List.range (p.length / 64)).map fun j => parseChunk (chunkAt p j) := by
  by_cases h1 : p.length % 64 = 0
  · rw [parse_of_multiple p h1] at h
    exact ⟨h1, (Except.ok.inj h).symm⟩
  · rw [parse_of_not_multiple p h1] at h
    exact absurd h (by simp)

/-- The blocks of two sequences of whole chunks, one after the other. -/
theorem parse_append (p q : List Byte) (bs cs : List Block) (hp : parse p = .ok bs) (hq : parse q = .ok cs) :
    parse (p ++ q) = .ok (bs ++ cs) := by
  obtain ⟨h1, rfl⟩ := parse_eq_ok p bs hp
  obtain ⟨h2, rfl⟩ := parse_eq_ok q cs hq
  have hk : p.length = 64 * (p.length / 64) := by omega
  have hl : (p ++ q).length / 64 = p.length / 64 + q.length / 64 := by simp only [List.length_append]; omega
  rw [parse_of_multiple _ (by simp only [List.length_append]; omega), hl, List.range_add, List.map_append, List.map_map]
  have e1 : (List.range (p.length / 64)).map (fun j => parseChunk (chunkAt (p ++ q) j)) =
      (List.range (p.length / 64)).map fun j => parseChunk (chunkAt p j) := by
    apply List.map_congr_left
    intro j hj
    have := List.mem_range.mp hj
    rw [chunkAt_append_left p q j (by omega)]
  have e2 : (List.range (q.length / 64)).map ((fun j => parseChunk (chunkAt (p ++ q) j)) ∘ fun x => p.length / 64 + x) =
      (List.range (q.length / 64)).map fun j => parseChunk (chunkAt q j) := by
    apply List.map_congr_left
    intro j _
    simp only [Function.comp]
    rw [chunkAt_append_right p q _ j hk]
  rw [e1, e2]

theorem parse_chunk (p : List Byte) (h : p.length = 64) : parse p = .ok [parseChunk p] := by
  have h0 : p.length % 64 = 0 := by omega
  have h1 : p.length / 64 = 1 := by omega
  have h2 : chunkAt p 0 = p := by simp [chunkAt, h, List.take_of_length_le]
  rw [parse_of_multiple p h0, h1]
  simp [List.range_succ, h2]

theorem parseOrFault_of_parse (p : List Byte) (bs : List Block) (h : parse p = .ok bs) : parseOrFault p = .ok bs := by
  simp [parseOrFault, h]

/-- PadTail always gives at least one block. -/
theorem parse_padTail (buf : List Byte) (n : BitVec 61) : ∃ B rest, parse (padTail buf n) = .ok (B :: rest) := by
  have h := length_padTail_mod buf n
  have hpos : 0 < (padTail buf n).length / 64 := by
    have : 9 ≤ (padTail buf n).length := by simp [padTail]; omega
    omega
  rw [parse_of_multiple _ h]
  obtain ⟨k, hk⟩ := Nat.exists_eq_succ_of_ne_zero hpos.ne'
  exact ⟨_, _, by rw [hk, List.range_succ_eq_map, List.map_cons]⟩

/-! ## Absorbing bytes -/

theorem msglen_add_one (x : BitVec 61) (n : Nat) : x + 1 + BitVec.ofNat 61 n = x + BitVec.ofNat 61 (n + 1) := by
  rw [Nat.add_comm, BitVec.ofNat_add, BitVec.add_assoc]
  rfl

theorem absorbByte_ok (s : State) (b : Byte) :
    absorbByte s b = .ok (if s.buf.length = 63 then
      { s with buf := [], msglen := s.msglen + 1, Q := s.Q ++ [parseChunk (s.buf ++ [b])] }
      else { s with buf := s.buf ++ [b], msglen := s.msglen + 1 }) := by
  by_cases h : s.buf.length = 63
  · have h1 : (s.buf ++ [b]).length = 64 := by simp [h]
    simp [absorbByte, h, parseOrFault_of_parse _ _ (parse_chunk _ h1), State.takeByte, State.enqueue, State.emptyBuf]
  · simp [absorbByte, h, State.takeByte, Config.blockBytes]

theorem absorbBytes_cons (s : State) (b : Byte) (bs : List Byte) :
    ∃ s', absorbByte s b = .ok s' ∧ absorbBytes s (b :: bs) = absorbBytes s' bs :=
  ⟨_, absorbByte_ok s b, by simp [absorbBytes, absorbByte_ok s b]⟩

theorem absorbBytes_ok (bs : List Byte) : ∀ s : State, ∃ s', absorbBytes s bs = .ok s' := by
  induction bs with
  | nil => exact fun s => ⟨s, rfl⟩
  | cons b bs ih =>
    intro s
    obtain ⟨s1, _, h⟩ := absorbBytes_cons s b bs
    obtain ⟨s', hs'⟩ := ih s1
    exact ⟨s', h.trans hs'⟩

/-- Absorbing bytes changes BUF, MSGLEN and Q only, and counts every byte. -/
theorem absorbBytes_frame (bs : List Byte) : ∀ s s' : State, absorbBytes s bs = .ok s' →
    ∃ buf Q, s' = { s with buf := buf, msglen := s.msglen + BitVec.ofNat 61 bs.length, Q := Q } := by
  induction bs with
  | nil =>
    intro s s' h
    cases h
    exact ⟨s.buf, s.Q, by simp⟩
  | cons b bs ih =>
    intro s s' h
    simp only [absorbBytes, absorbByte_ok] at h
    obtain ⟨buf, Q, rfl⟩ := ih _ s' h
    refine ⟨buf, Q, ?_⟩
    simp only [List.length_cons, ← msglen_add_one]
    split <;> rfl

/-- Bytes that do not fill BUF only join it and are counted. -/
theorem absorbBytes_short (bs : List Byte) : ∀ s : State, s.buf.length + bs.length < 64 →
    absorbBytes s bs = .ok { s with buf := s.buf ++ bs, msglen := s.msglen + BitVec.ofNat 61 bs.length } := by
  induction bs with
  | nil => intro s _; simp [absorbBytes]
  | cons b bs ih =>
    intro s h
    simp only [List.length_cons] at h
    have h1 : s.buf.length ≠ 63 := by omega
    simp only [absorbBytes, absorbByte_ok, h1, if_false]
    rw [ih _ (by simp; omega)]
    simp only [List.append_assoc, List.singleton_append, List.length_cons, msglen_add_one]

/-- Bytes that fill BUF, fewer than 64 of them, dispatch one block; the rest stay. -/
theorem absorbBytes_filling (bs : List Byte) : ∀ s : State, s.buf.length < 64 → 64 ≤ s.buf.length + bs.length →
    s.buf.length + bs.length < 128 →
    absorbBytes s bs = .ok
      { s with
        buf := (s.buf ++ bs).drop 64
        msglen := s.msglen + BitVec.ofNat 61 bs.length
        Q := s.Q ++ [parseChunk ((s.buf ++ bs).take 64)] } := by
  induction bs with
  | nil => intro s h1 h2 _; simp at h2; omega
  | cons b bs ih =>
    intro s h1 h2 h3
    simp only [List.length_cons] at h2 h3
    simp only [absorbBytes, absorbByte_ok]
    by_cases h : s.buf.length = 63
    · simp only [h, if_true]
      rw [absorbBytes_short _ _ (by simp; omega)]
      have e1 : (s.buf ++ b :: bs).take 64 = s.buf ++ [b] := by
        rw [List.append_cons, List.take_append_of_le_length (by simp [h]), List.take_of_length_le (by simp [h])]
      have e2 : (s.buf ++ b :: bs).drop 64 = bs := by
        rw [List.append_cons, List.drop_append_of_le_length (by simp [h]), List.drop_eq_nil_of_le (by simp [h])]; rfl
      simp only [e1, e2, List.nil_append, List.length_cons, msglen_add_one]
    · simp only [h, if_false]
      rw [ih _ (by simp; omega) (by simp; omega) (by simp; omega)]
      simp only [List.append_assoc, List.singleton_append, List.length_cons, msglen_add_one]

@[simp] theorem length_appendBytes (n : ByteCount) (w : Word) : (appendBytes n w).length = n.toNat := by simp [appendBytes]

theorem ByteCount.toNat_pos (n : ByteCount) : 1 ≤ n.toNat := by cases n <;> decide

theorem ByteCount.toNat_le (n : ByteCount) : n.toNat ≤ 4 := by cases n <;> decide

/-! ## The command path -/

theorem perform_ok (c : Command) (s : State) : ∃ s', perform c s = .ok s' := by
  cases c with
  | nop => exact ⟨_, rfl⟩
  | init => exact ⟨_, rfl⟩
  | append n =>
    obtain ⟨s', h⟩ := absorbBytes_ok (appendBytes n s.dataIn) s
    by_cases ht : tooLarge n s = true
    · exact ⟨refuseTooLarge s, by simp [perform, performAppend, ht]⟩
    · exact ⟨startIfDispatched s', by simp [perform, performAppend, ht, h]⟩
  | final =>
    obtain ⟨B, rest, h⟩ := parse_padTail s.buf s.msglen
    refine ⟨?_, ?_⟩
    rotate_left
    · simp only [perform, performFinal, parseOrFault_of_parse _ _ h]
      rfl
  | compress => exact ⟨_, rfl⟩

theorem writeCmd_busy (d : Except CommandReject Command) (s : State) (h : s.Q ≠ []) :
    writeCmd d s = errorAnswer .busyWrite s := by simp [writeCmd, State.busy_eq_true.mpr h]

theorem writeCmd_illegal (e : CommandReject) (s : State) (h : s.Q = []) :
    writeCmd (.error e) s = errorAnswer .illegalCmd s := by simp [writeCmd, State.busy, h]

theorem writeCmd_refused (c : Command) (s : State) (h : s.Q = []) (ha : allowed c s.phase = false) :
    writeCmd (.ok c) s = errorAnswer .sequence s := by simp [writeCmd, State.busy, h, ha]

theorem writeCmd_performed (c : Command) (s s' : State) (h : s.Q = []) (ha : allowed c s.phase = true)
    (hp : perform c s = .ok s') : writeCmd (.ok c) s = .next s'.acknowledge := by
  simp [writeCmd, State.busy, h, ha, hp, writeAnswer]

/-- Everything the command path can do. -/
theorem writeCmd_cases (d : Except CommandReject Command) (s s' : State) (h : writeCmd d s = .next s') :
    (s.Q ≠ [] ∧ s' = (s.raise .busyWrite).acknowledge) ∨
    (s.Q = [] ∧ (∃ e, d = .error e) ∧ s' = (s.raise .illegalCmd).acknowledge) ∨
    (∃ c, s.Q = [] ∧ d = .ok c ∧ allowed c s.phase = false ∧ s' = (s.raise .sequence).acknowledge) ∨
    (∃ c s1, s.Q = [] ∧ d = .ok c ∧ allowed c s.phase = true ∧ perform c s = .ok s1 ∧ s' = s1.acknowledge) := by
  by_cases hq : s.Q = []
  · cases d with
    | error e =>
      rw [writeCmd_illegal e s hq] at h
      cases h
      exact .inr (.inl ⟨hq, ⟨e, rfl⟩, rfl⟩)
    | ok c =>
      cases ha : allowed c s.phase with
      | false =>
        rw [writeCmd_refused c s hq ha] at h
        cases h
        exact .inr (.inr (.inl ⟨c, hq, rfl, ha, rfl⟩))
      | true =>
        obtain ⟨s1, hp⟩ := perform_ok c s
        rw [writeCmd_performed c s s1 hq ha hp] at h
        cases h
        exact .inr (.inr (.inr ⟨c, s1, hq, rfl, ha, hp, rfl⟩))
  · rw [writeCmd_busy d s hq] at h
    cases h
    exact .inl ⟨hq, rfl⟩

/-! ## Engine steps -/

theorem engineStep_idle (s : State) (h : s.Q = []) : s.engineStep = s := by simp [State.engineStep, h]

theorem engineStep_round (s : State) (hq : s.Q ≠ []) (h : s.t.val < Config.rounds) : s.engineStep = s.roundStep h := by
  obtain ⟨B, rest, hB⟩ := List.exists_cons_of_ne_nil hq
  simp [State.engineStep, hB, h]

theorem engineStep_addBack (s : State) (hq : s.Q ≠ []) (h : s.t.val = 64) : s.engineStep = s.addBackStep := by
  obtain ⟨B, rest, hB⟩ := List.exists_cons_of_ne_nil hq
  simp [State.engineStep, hB, h]

theorem addBackStep_last (s : State) (B : Block) (h : s.Q = [B]) : s.addBackStep = s.foldHead.complete := by
  simp [State.addBackStep, h]

theorem addBackStep_more (s : State) (B C : Block) (rest : List Block) (h : s.Q = B :: C :: rest) :
    s.addBackStep = s.foldHead.load := by
  simp [State.addBackStep, h]

/-- Everything an engine step can do. -/
theorem engineStep_cases (s : State) :
    (s.Q = [] ∧ s.engineStep = s) ∨
    (s.Q ≠ [] ∧ ∃ h : s.t.val < Config.rounds, s.engineStep = s.roundStep h) ∨
    (s.t.val = 64 ∧ ∃ B, s.Q = [B] ∧ s.engineStep = s.foldHead.complete) ∨
    (s.t.val = 64 ∧ ∃ B C rest, s.Q = B :: C :: rest ∧ s.engineStep = s.foldHead.load) := by
  have ht := s.t.isLt
  match hq : s.Q with
  | [] => exact .inl ⟨rfl, engineStep_idle s hq⟩
  | B :: rest =>
    have hne : s.Q ≠ [] := by simp [hq]
    by_cases h : s.t.val < Config.rounds
    · exact .inr (.inl ⟨by simp, h, engineStep_round s hne h⟩)
    · have h64 : s.t.val = 64 := by simp only [Config.rounds] at h; omega
      cases rest with
      | nil => exact .inr (.inr (.inl ⟨h64, B, rfl, by rw [engineStep_addBack s hne h64, addBackStep_last s B hq]⟩))
      | cons C rest =>
        exact .inr (.inr (.inr ⟨h64, B, C, rest, rfl, by rw [engineStep_addBack s hne h64, addBackStep_more s B C rest hq]⟩))

/-- An engine step changes H, the datapath, Q, SETDV and DV only. -/
theorem engineStep_frame (s : State) : ∃ H working window t Q setdv dv, s.engineStep =
    { s with H := H, working := working, window := window, t := t, Q := Q, setdv := setdv, dv := dv } := by
  rcases engineStep_cases s with ⟨_, h⟩ | ⟨_, ht, h⟩ | ⟨_, B, _, h⟩ | ⟨_, B, C, rest, hq, h⟩
  · exact ⟨_, _, _, _, _, _, _, h⟩
  · exact ⟨_, _, _, _, _, _, _, h⟩
  · exact ⟨_, _, _, _, _, _, _, h⟩
  · refine ⟨_, _, _, _, _, _, _, h.trans (State.load_cons s.foldHead C rest (by simp [hq]))⟩

end Sys2Proof.Machine
end

