-- ==== Sys2Proof/Laws/Datapath.lean ====
section
/-! SUPPORT. The schedule, the rounds and the window: the array of R140, the window of R143, and the engine's steps on them. -/

namespace Sys2Proof.Machine

theorem length_scheduleExtend (n : Nat) : ∀ W : List Word, (scheduleExtend W n).length = W.length + n := by
  induction n with
  | zero => intro W; rfl
  | succ n ih => intro W; simp [scheduleExtend, ih]; omega

@[simp] theorem length_schedule (B : Block) : (schedule B).length = 64 := by simp [schedule, length_scheduleExtend]

/-- Extending a schedule keeps the Words it has. -/
theorem getD_scheduleExtend_old (n : Nat) : ∀ (W : List Word) (t : Nat), t < W.length →
    (scheduleExtend W n).getD t 0 = W.getD t 0 := by
  induction n with
  | zero => intro W t _; rfl
  | succ n ih =>
    intro W t h
    rw [scheduleExtend, ih _ t (by simp; omega)]
    simp [List.getD, List.getElem?_append_left h]

/-- The Words a schedule is extended by follow the recurrence of R140. -/
theorem getD_scheduleExtend_new (n : Nat) : ∀ (W : List Word) (t : Nat), 16 ≤ W.length → W.length ≤ t → t < W.length + n →
    (scheduleExtend W n).getD t 0 =
      (scheduleExtend W n).getD (t - 16) 0 + smallSigma0 ((scheduleExtend W n).getD (t - 15) 0)
        + (scheduleExtend W n).getD (t - 7) 0 + smallSigma1 ((scheduleExtend W n).getD (t - 2) 0) := by
  induction n with
  | zero => intro W t _ h1 h2; omega
  | succ n ih =>
    intro W t h16 h1 h2
    rcases Nat.lt_or_ge W.length t with h | h
    · exact ih (W ++ [scheduleNext W]) t (by simp; omega) (by simp; omega) (by simp; omega)
    · have ht : t = W.length := by omega
      subst ht
      have hold : ∀ k, k < W.length → (scheduleExtend W (n + 1)).getD k 0 = W.getD k 0 := fun k hk =>
        getD_scheduleExtend_old (n + 1) W k hk
      have hnew : (scheduleExtend W (n + 1)).getD W.length 0 = scheduleNext W := by
        rw [scheduleExtend, getD_scheduleExtend_old _ _ _ (by simp)]
        simp [List.getD]
      rw [hnew, hold (W.length - 16) (by omega), hold (W.length - 15) (by omega), hold (W.length - 7) (by omega),
        hold (W.length - 2) (by omega)]
      rfl

theorem scheduleWord_block (B : Block) (t : Nat) (h : t < 16) : scheduleWord B t = B[t] := by
  unfold scheduleWord schedule
  rw [getD_scheduleExtend_old _ _ _ (by simpa using h)]
  simp [List.getD, h]

theorem scheduleWord_next (B : Block) (t : Nat) (h : t < 48) :
    scheduleWord B (t + 16) = scheduleWord B t + smallSigma0 (scheduleWord B (t + 1)) + scheduleWord B (t + 9)
      + smallSigma1 (scheduleWord B (t + 14)) := by
  have := getD_scheduleExtend_new 48 B.toList (t + 16) (by simp) (by simp) (by simp; omega)
  simpa [scheduleWord, schedule] using this

theorem roundsDone_zero (B : Block) (v : Working) : roundsDone B 0 v = v := rfl

theorem roundsDone_succ (B : Block) (n : Nat) (h : n < 64) (v : Working) :
    roundsDone B (n + 1) v = mixRound (roundsDone B n v) (roundConstant ⟨n, h⟩) (scheduleWord B n) := by
  unfold roundsDone
  have : (List.finRange 64).take (n + 1) = (List.finRange 64).take n ++ [⟨n, h⟩] := by
    rw [List.take_add_one]
    simp [h]
  rw [this, List.foldl_append]
  rfl

theorem getElem_windowStep (S : Vector Word 16) (j : Nat) (h : j < 15) : (windowStep S)[j] = S[j + 1] := by
  interval_cases j <;> rfl

theorem getElem_windowStep_last (S : Vector Word 16) : (windowStep S)[15] = windowNext S := rfl

/-- A loaded block is at its start (R141). -/
theorem inBlock_of_load (s : State) (B : Block) (hw : s.working = seedWorking s.H) (hS : s.window = B) (ht : s.t = 0) :
    s.InBlock B := by
  constructor
  · rw [hw, ht]; rfl
  · intro j hj
    have h0 : s.t.val = 0 := by rw [ht]; rfl
    simp only [h0, Nat.zero_add]
    rw [scheduleWord_block B j.val j.isLt, hS]
    rfl

/-- A round keeps a block in progress (R143, R146). -/
theorem inBlock_roundStep (s : State) (B : Block) (h : s.t.val < Config.rounds) (hi : s.InBlock B) : (s.roundStep h).InBlock B := by
  have ht : s.t.val < 64 := h
  have get : ∀ (j : Nat) (hj : j < 16), s.t.val + j ≤ 63 → s.window[j] = scheduleWord B (s.t.val + j) := fun j hj hle =>
    hi.window ⟨j, hj⟩ hle
  constructor
  · have h0 : s.window[0] = scheduleWord B s.t.val := get 0 (by omega) (by omega)
    simp only [State.roundStep_working, State.roundStep_H, State.roundStep_t]
    rw [roundsDone_succ B s.t.val ht, ← hi.working, h0]
  · intro j hj
    obtain ⟨j, hj16⟩ := j
    simp only [State.roundStep_t] at hj ⊢
    simp only [State.roundStep_window]
    have e1 : s.t.val + 1 + j = s.t.val + (j + 1) := by omega
    rw [e1] at hj ⊢
    by_cases hj15 : j < 15
    · have e : (windowStep s.window)[j] = s.window[j + 1] := getElem_windowStep s.window j hj15
      exact e.trans (get (j + 1) (by omega) hj)
    · have hj' : j = 15 := by omega
      subst hj'
      have e : (windowStep s.window)[15] = windowNext s.window := getElem_windowStep_last s.window
      refine e.trans ?_
      rw [show s.t.val + (15 + 1) = s.t.val + 16 from rfl, scheduleWord_next B s.t.val (by omega), windowNext,
        get 1 (by omega) (by omega), get 9 (by omega) (by omega), get 14 (by omega) (by omega), get 0 (by omega) (by omega)]
      rfl

theorem engineSteps_succ (s : State) (n : Nat) : s.engineSteps (n + 1) = s.engineStep.engineSteps n := rfl

theorem engineSteps_add (m n : Nat) : ∀ s : State, s.engineSteps (m + n) = (s.engineSteps m).engineSteps n := by
  induction m with
  | zero => intro s; rw [Nat.zero_add]; rfl
  | succ m ih => intro s; rw [Nat.succ_add, engineSteps_succ, ih, engineSteps_succ]

/-- Rounds of the head block: the datapath stays in the middle of that block, and nothing but the datapath changes (R150). -/
theorem engineSteps_rounds (B : Block) (rest : List Block) (n : Nat) : ∀ s : State, s.Q = B :: rest → s.InBlock B → s.t.val + n ≤ 64 →
    (s.engineSteps n).InBlock B ∧ (s.engineSteps n).t.val = s.t.val + n ∧
    s.engineSteps n = { s with
      working := (s.engineSteps n).working, window := (s.engineSteps n).window, t := (s.engineSteps n).t } := by
  induction n with
  | zero => intro s _ hi _; exact ⟨hi, rfl, rfl⟩
  | succ n ih =>
    intro s hq hi ht
    have hlt : s.t.val < Config.rounds := by simp only [Config.rounds]; omega
    have he : s.engineStep = s.roundStep hlt := engineStep_round s (by simp [hq]) hlt
    have h := ih (s.roundStep hlt) hq (inBlock_roundStep s B hlt hi) (by simp only [State.roundStep_t]; omega)
    rw [engineSteps_succ, he]
    refine ⟨h.1, h.2.1.trans ?_, h.2.2.trans rfl⟩
    simp only [State.roundStep_t]
    omega

/-- The add-back of a block in progress leaves compress of it in H (R147, R153). -/
theorem addBack_inBlock (s : State) (B : Block) (hi : s.InBlock B) (ht : s.t.val = 64) : addBack s.H s.working = compress s.H B := by
  rw [hi.working, ht]
  rfl

theorem inBlock_load (s : State) (B : Block) (rest : List Block) (hq : s.Q = B :: rest) : s.load.InBlock B := by
  rw [State.load_cons s B rest hq]
  exact inBlock_of_load _ B rfl rfl rfl

end Sys2Proof.Machine
end

