-- ==== Sys2Proof/Laws/Decode.lean ====
section
/-! SUPPORT. The fields of a command word as numbers, and what the two decoders can answer. -/

namespace Sys2Proof

theorem toNat_opcField (v : Word) : (opcField v).toNat = v.toNat % 16 := by
  simp [opcField, BitVec.extractLsb'_toNat]

theorem toNat_nbField (v : Word) : (nbField v).toNat = v.toNat / 16 % 8 := by
  simp [nbField, BitVec.extractLsb'_toNat, Nat.shiftRight_eq_div_pow]

theorem toNat_rsvField (v : Word) : (rsvField v).toNat = v.toNat / 128 := by
  have := v.isLt
  simp [rsvField, BitVec.extractLsb'_toNat, Nat.shiftRight_eq_div_pow]
  omega

/-- A word is its three fields. -/
theorem toNat_of_fields (v : Word) :
    v.toNat = 128 * (rsvField v).toNat + 16 * (nbField v).toNat + (opcField v).toNat := by
  rw [toNat_opcField, toNat_nbField, toNat_rsvField]
  omega

theorem decodeCommand_word (c : Command) : decodeCommand c.word = .ok c := by
  cases c with
  | append n => cases n <;> decide
  | _ => decide

theorem withoutByteCount_eq_ok (nb : BitVec 3) (c c' : Command) (h : withoutByteCount nb c = .ok c') : nb = 0 ∧ c' = c := by
  unfold withoutByteCount at h
  split at h
  · exact ⟨‹_›, (Except.ok.inj h).symm⟩
  · cases h

theorem appendOf_eq_ok (nb : BitVec 3) (c : Command) (h : appendOf nb = .ok c) :
    ∃ n : ByteCount, nb.toNat = n.toNat ∧ c = .append n := by
  unfold appendOf at h
  split at h
  · subst nb; exact ⟨.one, rfl, (Except.ok.inj h).symm⟩
  · split at h
    · subst nb; exact ⟨.two, rfl, (Except.ok.inj h).symm⟩
    · split at h
      · subst nb; exact ⟨.three, rfl, (Except.ok.inj h).symm⟩
      · split at h
        · subst nb; exact ⟨.four, rfl, (Except.ok.inj h).symm⟩
        · cases h

theorem toNat_word_append (n : ByteCount) : (Command.append n).word.toNat = 16 * n.toNat + 2 := by cases n <;> rfl

/-- The word of a command is the only one that decodes to it. -/
theorem eq_word_of_decodeCommand (v : Word) (c : Command) (h : decodeCommand v = .ok c) : v = c.word := by
  apply BitVec.eq_of_toNat_eq
  rw [toNat_of_fields v]
  unfold decodeCommand at h
  split at h
  · cases h
  · rename_i hr
    have hr0 : rsvField v = 0 := by simpa using hr
    split at h
    · rename_i ho
      obtain ⟨hn, rfl⟩ := withoutByteCount_eq_ok _ _ _ h
      rw [hr0, hn, ho]; rfl
    · split at h
      · rename_i ho
        obtain ⟨hn, rfl⟩ := withoutByteCount_eq_ok _ _ _ h
        rw [hr0, hn, ho]; rfl
      · split at h
        · rename_i ho
          obtain ⟨n, hn, rfl⟩ := appendOf_eq_ok _ _ h
          rw [hr0, hn, ho, toNat_word_append]; simp
        · split at h
          · rename_i ho
            obtain ⟨hn, rfl⟩ := withoutByteCount_eq_ok _ _ _ h
            rw [hr0, hn, ho]; rfl
          · split at h
            · rename_i ho
              obtain ⟨hn, rfl⟩ := withoutByteCount_eq_ok _ _ _ h
              rw [hr0, hn, ho]; rfl
            · cases h

theorem mem_legalCommandWords (v : Word) : v ∈ legalCommandWords ↔ ∃ c : Command, v = c.word := by
  constructor
  · intro h
    simp only [legalCommandWords, List.mem_cons, List.not_mem_nil, or_false] at h
    rcases h with h | h | h | h | h | h | h | h
    · exact ⟨.nop, h⟩
    · exact ⟨.init, h⟩
    · exact ⟨.append .one, h⟩
    · exact ⟨.append .two, h⟩
    · exact ⟨.append .three, h⟩
    · exact ⟨.append .four, h⟩
    · exact ⟨.final, h⟩
    · exact ⟨.compress, h⟩
  · rintro ⟨c, rfl⟩
    cases c with
    | append n => cases n <;> decide
    | _ => decide

/-- A legal command word is exactly a word that decodes (R72 is derived from R76). -/
theorem mem_legalCommandWords_iff_decodes (v : Word) : v ∈ legalCommandWords ↔ ∃ c, decodeCommand v = .ok c := by
  rw [mem_legalCommandWords]
  constructor
  · rintro ⟨c, rfl⟩; exact ⟨c, decodeCommand_word c⟩
  · rintro ⟨c, h⟩; exact ⟨c, eq_word_of_decodeCommand v c h⟩

theorem wellFormed_command (c : Command) : c.instr.wellFormed = true := by
  cases c with
  | append n => cases n <;> rfl
  | _ => rfl

/-- What a CMD write decodes to. -/
theorem writeCmdInstr_cases (v : Word) :
    (∃ c : Command, v = c.word ∧ writeCmdInstr v = c.instr) ∨ (∃ e, decodeCommand v = .error e ∧ writeCmdInstr v = .wrCmd v) := by
  unfold writeCmdInstr
  cases h : decodeCommand v with
  | ok c => exact .inl ⟨c, eq_word_of_decodeCommand v c h, rfl⟩
  | error e => exact .inr ⟨e, rfl, rfl⟩

/-- What an access inside the window decodes to. -/
theorem decode_at (basePage : Nat) (a : HostAccess) (off : BitVec 12) (h : a.addr = busAddress basePage off) :
    decode basePage a = (match decodeAt off a with | .error r => .error (.busError r) | .ok i => .ok i) := by
  have h2 : windowOffset basePage a.addr = some off := by
    have := off.isLt
    rw [h]
    unfold windowOffset busAddress
    rw [if_pos ⟨by omega, by simp only [Config.windowBytes]; omega⟩]
    congr 1
    apply BitVec.eq_of_toNat_eq
    simp
  cases hd : decodeAt off a <;> simp [decode, h2, hd]

theorem windowOffset_eq_some (basePage addr : Nat) (off : BitVec 12) (h : windowOffset basePage addr = some off) :
    addr = busAddress basePage off := by
  unfold windowOffset at h
  split at h
  · rename_i hin
    have := (Option.some.inj h).symm
    subst this
    simp only [busAddress, BitVec.toNat_ofNat]
    simp only [Config.windowBytes] at hin
    omega
  · cases h

/-- The decoder answers `wrCmd` for illegal command words only. -/
theorem decodeCommand_of_decode_wrCmd (basePage : Nat) (a : HostAccess) (v : Word) (h : decode basePage a = .ok (.wrCmd v)) :
    ∃ e, decodeCommand v = .error e := by
  unfold decode at h
  split at h
  · cases h
  · split at h
    · cases h
    · rename_i j hj
      cases h
      unfold decodeAt at hj
      split at hj
      · cases hj
      · split at hj
        · cases hj
        · split at hj
          · cases hj
          · rename_i r _
            split at hj
            · cases r <;> simp [readInstr] at hj
            · cases r with
              | cmd =>
                simp only [writeInstr, Except.ok.injEq] at hj
                rcases writeCmdInstr_cases a.data with ⟨c, _, hc⟩ | ⟨e, he, hw⟩
                · rw [hc] at hj
                  cases c with
                  | append n => cases n <;> simp [Command.instr] at hj
                  | _ => simp [Command.instr] at hj
                · rw [hw] at hj
                  cases hj
                  exact ⟨e, he⟩
              | _ => simp [writeInstr] at hj

/-- The offset of every register is aligned and decodes to that register (R41 against R77). -/
theorem decodeReg_offset (r : Reg) : decodeReg r.offset = some r ∧ r.offset.extractLsb' 0 2 = 0 := by
  cases r with
  | h i => revert i; decide
  | m i => revert i; decide
  | digest i => revert i; decide
  | hex k => revert k; decide
  | _ => decide

end Sys2Proof
end

