-- ==== Sys2Proof/Laws/Exec.lean ====
section
/-! SUPPORT. The inversion lemmas: everything an operation can do (`ExecResult`, `exec_result`) and everything a step can do
(`step_cases`). Statements about every step are derived from these instead of unfolding exec. -/

namespace Sys2Proof.Machine

/-- The arms of the commands. -/
theorem exec_command (c : Command) (s : State) : exec c.instr s = writeCmd (.ok c) s := by
  cases c with
  | append n => cases n <;> rfl
  | _ => rfl

theorem exec_wrCmd (v : Word) (s : State) : exec (.wrCmd v) s = writeCmd (decodeCommand v) s := rfl

theorem exec_appendInstr (n : ByteCount) (s : State) : exec (appendInstr n) s = writeCmd (.ok (.append n)) s :=
  exec_command (.append n) s

/-- What a read answers. -/
theorem exec_read (i : Instr) (s s' : State) (hi : isRead i = true) (h : exec i s = .next s') :
    ∃ w k, s' = { s with response := .data w, freeDraws := k } := by
  cases i <;> try cases hi
  case rdH j =>
    by_cases hq : s.busy = true
    · simp only [exec, execRdH, hq, if_true] at h
      cases h
      exact ⟨_, _, rfl⟩
    · simp only [exec, execRdH, hq] at h
      cases h
      exact ⟨_, _, rfl⟩
  all_goals cases h; exact ⟨_, _, rfl⟩

/-- A guarded write is refused while busy and otherwise performed. -/
theorem guardedWrite_cases (f : State → State) (s s' : State) (h : guardedWrite f s = .next s') :
    (s.Q ≠ [] ∧ s' = (s.raise .busyWrite).acknowledge) ∨ (s.Q = [] ∧ s' = (f s).acknowledge) := by
  by_cases hq : s.Q = []
  · rw [guardedWrite_idle f s hq] at h
    cases h
    exact .inr ⟨hq, rfl⟩
  · rw [guardedWrite_busy f s hq] at h
    cases h
    exact .inl ⟨hq, rfl⟩

/-- An operation is a command, directly or as the CMD write of its word. -/
def IsCommand (i : Instr) (c : Command) : Prop := i = c.instr ∨ i = .wrCmd c.word

/-- Everything an operation can do when it answers a next state. -/
inductive ExecResult (i : Instr) (s : State) : State → Prop where
  | read (w : Word) (k : Nat) : isRead i = true → ExecResult i s { s with response := .data w, freeDraws := k }
  | ignored : isRead i = false → ExecResult i s s.acknowledge
  | busy : s.Q ≠ [] → isRead i = false → ExecResult i s (s.raise .busyWrite).acknowledge
  | writeH (j : Fin 8) (v : Word) : i = .wrH j v → s.Q = [] → ExecResult i s (s.writeH j v).acknowledge
  | writeM (j : Fin 16) (v : Word) : i = .wrM j v → s.Q = [] → ExecResult i s (s.writeM j v).acknowledge
  | writeDataIn (v : Word) : i = .wrDataIn v → s.Q = [] → ExecResult i s (s.writeDataIn v).acknowledge
  | illegal (v : Word) (e : CommandReject) : i = .wrCmd v → decodeCommand v = .error e → s.Q = [] →
      ExecResult i s (s.raise .illegalCmd).acknowledge
  | refused (c : Command) : IsCommand i c → s.Q = [] → allowed c s.phase = false →
      ExecResult i s (s.raise .sequence).acknowledge
  | performed (c : Command) (s1 : State) : IsCommand i c → s.Q = [] → allowed c s.phase = true → perform c s = .ok s1 →
      ExecResult i s s1.acknowledge

theorem IsCommand.isRead_eq {i : Instr} {c : Command} (h : IsCommand i c) : isRead i = false := by
  rcases h with rfl | rfl
  · cases c with
    | append n => cases n <;> rfl
    | _ => rfl
  · rfl

theorem execResult_command (i : Instr) (c : Command) (s s' : State) (hi : IsCommand i c) (h : writeCmd (.ok c) s = .next s') :
    ExecResult i s s' := by
  rcases writeCmd_cases _ s s' h with ⟨hq, rfl⟩ | ⟨_, ⟨e, he⟩, _⟩ | ⟨c', hq, hc, ha, rfl⟩ | ⟨c', s1, hq, hc, ha, hp, rfl⟩
  · exact .busy hq hi.isRead_eq
  · cases he
  · cases hc; exact .refused c hi hq ha
  · cases hc; exact .performed c s1 hi hq ha hp

theorem exec_result (i : Instr) (s s' : State) (h : exec i s = .next s') : ExecResult i s s' := by
  cases i
  case wrH j v =>
    rcases guardedWrite_cases _ s s' h with ⟨hq, rfl⟩ | ⟨hq, rfl⟩
    · exact .busy hq rfl
    · exact .writeH j v rfl hq
  case wrM j v =>
    rcases guardedWrite_cases _ s s' h with ⟨hq, rfl⟩ | ⟨hq, rfl⟩
    · exact .busy hq rfl
    · exact .writeM j v rfl hq
  case wrDataIn v =>
    rcases guardedWrite_cases _ s s' h with ⟨hq, rfl⟩ | ⟨hq, rfl⟩
    · exact .busy hq rfl
    · exact .writeDataIn v rfl hq
  case wrCmd v =>
    rw [exec_wrCmd] at h
    cases hd : decodeCommand v with
    | ok c =>
      rw [hd] at h
      exact execResult_command _ c s s' (.inr (congrArg _ (eq_word_of_decodeCommand v c hd))) h
    | error e =>
      rw [hd] at h
      by_cases hq : s.Q = []
      · rw [writeCmd_illegal e s hq] at h
        cases h
        exact .illegal v e rfl hd hq
      · rw [writeCmd_busy _ s hq] at h
        cases h
        exact .busy hq rfl
  case nop => exact execResult_command _ .nop s s' (.inl rfl) h
  case init => exact execResult_command _ .init s s' (.inl rfl) h
  case append1 => exact execResult_command _ (.append .one) s s' (.inl rfl) h
  case append2 => exact execResult_command _ (.append .two) s s' (.inl rfl) h
  case append3 => exact execResult_command _ (.append .three) s s' (.inl rfl) h
  case append4 => exact execResult_command _ (.append .four) s s' (.inl rfl) h
  case final => exact execResult_command _ .final s s' (.inl rfl) h
  case compress => exact execResult_command _ .compress s s' (.inl rfl) h
  case wrStatus v => cases h; exact .ignored rfl
  case wrMsglenLo v => cases h; exact .ignored rfl
  case wrMsglenHi v => cases h; exact .ignored rfl
  case wrDigest j v => cases h; exact .ignored rfl
  case wrHex k v => cases h; exact .ignored rfl
  all_goals
    obtain ⟨w, k, rfl⟩ := exec_read _ s s' rfl h
    exact .read w k rfl

/-- No operation raises a BusError: only `hostAccess` does, before an operation begins. -/
theorem exec_ne_busError (i : Instr) (s : State) (r : BusErrorReason) : exec i s ≠ .fault (.busError r) := by
  have hw : ∀ d, writeCmd d s ≠ .fault (.busError r) := fun d => by
    unfold writeCmd
    split
    · simp [errorAnswer]
    · split
      · simp [errorAnswer]
      · split
        · rename_i c _
          obtain ⟨s1, h1⟩ := perform_ok c s
          simp [h1, writeAnswer]
        · simp [errorAnswer]
  have hg : ∀ f, guardedWrite f s ≠ .fault (.busError r) := fun f => by
    unfold guardedWrite
    split <;> simp [errorAnswer]
  cases i
  case rdH j =>
    simp only [exec, execRdH]
    split <;> simp [readAnswer]
  case nop => exact hw (.ok .nop)
  case init => exact hw (.ok .init)
  case append1 => exact hw (.ok (.append .one))
  case append2 => exact hw (.ok (.append .two))
  case append3 => exact hw (.ok (.append .three))
  case append4 => exact hw (.ok (.append .four))
  case final => exact hw (.ok .final)
  case compress => exact hw (.ok .compress)
  case wrCmd v => exact hw (decodeCommand v)
  case wrDataIn v => exact hg _
  case wrH j v => exact hg _
  case wrM j v => exact hg _
  all_goals exact fun h => by cases h

/-! ## Performing a command -/

theorem startJob_eq (s : State) (v : Bool) (B : Block) (rest : List Block) (h : s.Q = B :: rest) :
    s.startJob v = { s with setdv := v, working := seedWorking s.H, window := B, t := 0 } := by
  exact State.load_cons { s with setdv := v } B rest h

/-- The state after an APPEND.n whose bytes do not fill BUF. -/
def appendedShort (n : ByteCount) (s : State) : State :=
  { s with buf := s.buf ++ appendBytes n s.dataIn, msglen := s.msglen + BitVec.ofNat 61 n.toNat }

/-- The state after an APPEND.n whose bytes fill BUF. -/
def appendedFull (n : ByteCount) (s : State) : State :=
  { s with
    buf := (s.buf ++ appendBytes n s.dataIn).drop 64
    msglen := s.msglen + BitVec.ofNat 61 n.toNat
    Q := [parseChunk ((s.buf ++ appendBytes n s.dataIn).take 64)]
    setdv := false
    working := seedWorking s.H
    window := parseChunk ((s.buf ++ appendBytes n s.dataIn).take 64)
    t := 0 }

theorem tooLarge_iff (n : ByteCount) (s : State) : tooLarge n s = true ↔ 2 ^ 61 ≤ s.msglen.toNat + n.toNat := by
  simp [tooLarge, Config.tooLargeBytes]

theorem performAppend_tooLarge (n : ByteCount) (s : State) (h : 2 ^ 61 ≤ s.msglen.toNat + n.toNat) :
    performAppend n s = .ok (refuseTooLarge s) := by
  simp [performAppend, (tooLarge_iff n s).mpr h]

theorem performAppend_short (n : ByteCount) (s : State) (hq : s.Q = []) (hl : s.msglen.toNat + n.toNat < 2 ^ 61)
    (hb : s.buf.length + n.toNat < 64) : performAppend n s = .ok (appendedShort n s) := by
  have ht : ¬(tooLarge n s = true) := by rw [tooLarge_iff]; omega
  have := absorbBytes_short (appendBytes n s.dataIn) s (by simpa using hb)
  simp [performAppend, ht, this, startIfDispatched, State.busy, hq, appendedShort]

theorem performAppend_full (n : ByteCount) (s : State) (hq : s.Q = []) (hl : s.msglen.toNat + n.toNat < 2 ^ 61)
    (hb : s.buf.length < 64) (hf : 64 ≤ s.buf.length + n.toNat) : performAppend n s = .ok (appendedFull n s) := by
  have ht : ¬(tooLarge n s = true) := by rw [tooLarge_iff]; omega
  have hn := ByteCount.toNat_le n
  have := absorbBytes_filling (appendBytes n s.dataIn) s hb (by simpa using hf) (by simp; omega)
  rw [hq, List.nil_append, length_appendBytes] at this
  simp only [performAppend, ht, this, startIfDispatched, State.busy, appendedFull]
  rw [startJob_eq _ false _ _ rfl]
  rfl

/-- An APPEND.n either is InputTooLarge or changes BUF, MSGLEN and the job only. -/
theorem performAppend_frame (n : ByteCount) (s s1 : State) (h : performAppend n s = .ok s1) :
    (2 ^ 61 ≤ s.msglen.toNat + n.toNat ∧ s1 = refuseTooLarge s) ∨
    (s.msglen.toNat + n.toNat < 2 ^ 61 ∧ ∃ buf Q setdv working window t, s1 =
      { s with
        buf := buf, msglen := s.msglen + BitVec.ofNat 61 n.toNat, Q := Q, setdv := setdv, working := working, window := window
        t := t }) := by
  by_cases hl : 2 ^ 61 ≤ s.msglen.toNat + n.toNat
  · rw [performAppend_tooLarge n s hl] at h
    cases h
    exact .inl ⟨hl, rfl⟩
  · have ht : ¬(tooLarge n s = true) := by rw [tooLarge_iff]; exact hl
    obtain ⟨s2, h2⟩ := absorbBytes_ok (appendBytes n s.dataIn) s
    obtain ⟨buf, Q, e⟩ := absorbBytes_frame _ s s2 h2
    rw [length_appendBytes] at e
    simp only [performAppend, ht, h2] at h
    cases h
    refine .inr ⟨by omega, buf, Q, ?_⟩
    subst e
    by_cases hq : Q = []
    · exact ⟨_, _, _, _, by simp only [startIfDispatched, State.busy, hq, List.isEmpty_nil]; rfl⟩
    · obtain ⟨B, rest, rfl⟩ := List.exists_cons_of_ne_nil hq
      exact ⟨_, _, _, _, by
        simp only [startIfDispatched, State.busy, List.isEmpty_cons]
        exact startJob_eq _ false B rest rfl⟩

theorem performFinal_eq (s : State) (B : Block) (rest : List Block) (h : parse (padTail s.buf s.msglen) = .ok (B :: rest)) :
    performFinal s = .ok
      { s with
        Q := B :: rest, buf := [], phase := .finalized, setdv := true, working := seedWorking s.H, window := B, t := 0 } := by
  simp only [performFinal, parseOrFault_of_parse _ _ h]
  rw [startJob_eq _ true B rest rfl]

theorem performCompress_eq (s : State) :
    performCompress s = .ok
      { s with dv := false, Q := [s.M], setdv := false, working := seedWorking s.H, window := s.M, t := 0 } := by
  unfold performCompress
  rw [startJob_eq _ false s.M [] rfl]

/-- Everything an accepted command can do. -/
inductive PerformResult (c : Command) (s : State) : State → Prop where
  | nop : c = .nop → PerformResult c s s
  | init : c = .init →
      PerformResult c s { s.clearErrors with H := initialHash, msglen := 0, buf := [], phase := .absorb, dv := false }
  | tooLarge (n : ByteCount) : c = .append n → 2 ^ 61 ≤ s.msglen.toNat + n.toNat → PerformResult c s (refuseTooLarge s)
  | append (n : ByteCount) (buf : List Byte) (Q : List Block) (setdv : Bool) (working : Working) (window : Vector Word 16)
      (t : Fin 65) : c = .append n → s.msglen.toNat + n.toNat < 2 ^ 61 →
      PerformResult c s
        { s with
          buf := buf, msglen := s.msglen + BitVec.ofNat 61 n.toNat, Q := Q, setdv := setdv, working := working
          window := window, t := t }
  | final (B : Block) (rest : List Block) : c = .final → parse (padTail s.buf s.msglen) = .ok (B :: rest) →
      PerformResult c s
        { s with
          Q := B :: rest, buf := [], phase := .finalized, setdv := true, working := seedWorking s.H, window := B, t := 0 }
  | compress : c = .compress →
      PerformResult c s
        { s with dv := false, Q := [s.M], setdv := false, working := seedWorking s.H, window := s.M, t := 0 }

theorem perform_result (c : Command) (s s1 : State) (h : perform c s = .ok s1) : PerformResult c s s1 := by
  cases c with
  | nop => cases h; exact .nop rfl
  | init => cases h; exact .init rfl
  | append n =>
    rcases performAppend_frame n s s1 h with ⟨hl, rfl⟩ | ⟨hl, buf, Q, setdv, w, S, t, rfl⟩
    · exact .tooLarge n rfl hl
    · exact .append n buf Q setdv w S t rfl hl
  | final =>
    obtain ⟨B, rest, hB⟩ := parse_padTail s.buf s.msglen
    rw [perform, performFinal_eq s B rest hB] at h
    cases h
    exact .final B rest rfl hB
  | compress =>
    rw [perform, performCompress_eq] at h
    cases h
    exact .compress rfl

/-- A decoded access that is a command is that command's own operation. -/
theorem IsCommand.eq_instr {i : Instr} {c : Command} (h : IsCommand i c) (basePage : Nat) (a : HostAccess)
    (hd : decode basePage a = .ok i) : i = c.instr := by
  rcases h with h | h
  · exact h
  · rw [h] at hd
    obtain ⟨e, he⟩ := decodeCommand_of_decode_wrCmd basePage a c.word hd
    rw [decodeCommand_word] at he
    cases he

/-- The number of blocks of PadTail. -/
theorem length_parse_padTail (buf : List Byte) (n : BitVec 61) (bs : List Block) (hb : buf.length ≤ 63)
    (h : parse (padTail buf n) = .ok bs) : bs.length = if buf.length ≤ 55 then 1 else 2 := by
  obtain ⟨_, rfl⟩ := parse_eq_ok _ _ h
  have hz : padZeros buf.length = if buf.length ≤ 55 then 55 - buf.length else 119 - buf.length := by
    unfold padZeros
    split <;> omega
  simp only [padTail, List.length_map, List.length_range, List.length_append, length_padSuffix, hz]
  split <;> omega

/-! ## Steps -/

/-- Everything a step can do when it answers a next state. -/
theorem step_cases (s s' : State) (h : step s = .next s') :
    (s.pending = [] ∧ s' = s.engineStep) ∨
    (∃ rest, s.pending = .engine :: rest ∧ s' = (s.takeEvent rest).engineStep) ∨
    (∃ rest, s.pending = .reset :: rest ∧ s' = resetEvent (s.takeEvent rest)) ∨
    (∃ a rest r, s.pending = .access a :: rest ∧ decode s.basePage a = .error (.busError r) ∧
      s' = (s.takeEvent rest).respond .busError) ∨
    (∃ a rest i, s.pending = .access a :: rest ∧ decode s.basePage a = .ok i ∧ exec i (s.takeEvent rest) = .next s') := by
  unfold step runNextEvent at h
  split at h
  · cases h
    exact .inl ⟨‹_›, rfl⟩
  · rename_i e rest hp
    cases e with
    | engine =>
      simp only [nextEvent] at h
      cases h
      exact .inr (.inl ⟨rest, hp, rfl⟩)
    | reset =>
      simp only [nextEvent] at h
      cases h
      exact .inr (.inr (.inl ⟨rest, hp, rfl⟩))
    | accessDuringReset a => simp [nextEvent] at h
    | access a =>
      simp only [nextEvent, hostAccess, State.takeEvent_basePage] at h
      cases hd : decode s.basePage a with
      | error e =>
        rw [hd] at h
        cases e with
        | outsideWindow => simp [afterAccess] at h
        | busError r =>
          simp only [afterAccess] at h
          cases h
          exact .inr (.inr (.inr (.inl ⟨a, rest, r, hp, hd, rfl⟩)))
      | ok i =>
        rw [hd] at h
        simp only at h
        cases he : exec i (s.takeEvent rest) with
        | next s1 =>
          rw [he] at h
          simp only [afterAccess] at h
          exact .inr (.inr (.inr (.inr ⟨a, rest, i, hp, hd, by rw [he]; exact h⟩)))
        | fault f =>
          rw [he] at h
          cases f with
          | malformedInput => simp [afterAccess] at h
          | busError r => exact absurd he (exec_ne_busError i _ r)
        | refused r => rw [he] at h; simp [afterAccess] at h

/-! ## Runs -/

/-- A run of a machine whose first step answers a next state. -/
theorem run_succ_of_next (M : Host.Core) (n : Nat) (s s' : M.State) (h : M.step s = .next s') : M.run (n + 1) s = M.run n s' := by
  rw [Host.Core.run, h]

/-- With no event left, a step is an engine step. -/
theorem step_no_event (s : State) (h : s.pending = []) : step s = .next s.engineStep := by simp [step, runNextEvent, h]

end Sys2Proof.Machine
end

