-- ==== Sys2Proof/Laws/PerInstr.lean ====
section
/-! SUPPORT. One lemma per operation: its access is 32 bits wide, aligned and inside the window of every BASE (20_memory.md rules R51
and R54). -/

namespace Sys2Proof.Laws.EncodesInWindow

/-- The access that is an operation is 32 bits wide, aligned, and inside the window at BASE, wherever BASE is. -/
def Statement (i : Instr) : Prop :=
  ∀ basePage : Nat, (encode basePage i).width = 32 ∧ (encode basePage i).addr % 4 = 0 ∧
    4096 * basePage ≤ (encode basePage i).addr ∧ (encode basePage i).addr < 4096 * basePage + 4096

/-- The bus address of a register is aligned and inside the window. -/
theorem busAddress_offset (basePage : Nat) (r : Reg) :
    busAddress basePage r.offset % 4 = 0 ∧ 4096 * basePage ≤ busAddress basePage r.offset ∧
      busAddress basePage r.offset < 4096 * basePage + 4096 := by
  have h : r.offset.toNat % 4 = 0 := by
    simpa [BitVec.extractLsb'_toNat] using congrArg BitVec.toNat (decodeReg_offset r).2
  have hlt := r.offset.isLt
  unfold busAddress baseAddress Config.windowBytes
  omega

theorem of_read (i : Instr) (r : Reg) (h : ∀ basePage, encode basePage i = readAccess basePage r) : Statement i := fun basePage => by
  rw [h basePage]
  exact ⟨rfl, busAddress_offset basePage r⟩

theorem of_write (i : Instr) (r : Reg) (v : Word) (h : ∀ basePage, encode basePage i = writeAccess basePage r v) : Statement i :=
  fun basePage => by
    rw [h basePage]
    exact ⟨rfl, busAddress_offset basePage r⟩

theorem nop : Statement .nop := of_write _ .cmd (Command.word .nop) fun _ => rfl

theorem init : Statement .init := of_write _ .cmd (Command.word .init) fun _ => rfl

theorem append1 : Statement .append1 := of_write _ .cmd (Command.word (.append .one)) fun _ => rfl

theorem append2 : Statement .append2 := of_write _ .cmd (Command.word (.append .two)) fun _ => rfl

theorem append3 : Statement .append3 := of_write _ .cmd (Command.word (.append .three)) fun _ => rfl

theorem append4 : Statement .append4 := of_write _ .cmd (Command.word (.append .four)) fun _ => rfl

theorem final : Statement .final := of_write _ .cmd (Command.word .final) fun _ => rfl

theorem compress : Statement .compress := of_write _ .cmd (Command.word .compress) fun _ => rfl

theorem rdCmd : Statement .rdCmd := of_read _ .cmd fun _ => rfl

theorem wrCmd (v : Word) : Statement (.wrCmd v) := of_write _ .cmd v fun _ => rfl

theorem rdStatus : Statement .rdStatus := of_read _ .status fun _ => rfl

theorem wrStatus (v : Word) : Statement (.wrStatus v) := of_write _ .status v fun _ => rfl

theorem rdDataIn : Statement .rdDataIn := of_read _ .dataIn fun _ => rfl

theorem wrDataIn (v : Word) : Statement (.wrDataIn v) := of_write _ .dataIn v fun _ => rfl

theorem rdMsglenLo : Statement .rdMsglenLo := of_read _ .msglenLo fun _ => rfl

theorem wrMsglenLo (v : Word) : Statement (.wrMsglenLo v) := of_write _ .msglenLo v fun _ => rfl

theorem rdMsglenHi : Statement .rdMsglenHi := of_read _ .msglenHi fun _ => rfl

theorem wrMsglenHi (v : Word) : Statement (.wrMsglenHi v) := of_write _ .msglenHi v fun _ => rfl

theorem rdH (i : Fin 8) : Statement (.rdH i) := of_read _ (.h i) fun _ => rfl

theorem wrH (i : Fin 8) (v : Word) : Statement (.wrH i v) := of_write _ (.h i) v fun _ => rfl

theorem rdM (i : Fin 16) : Statement (.rdM i) := of_read _ (.m i) fun _ => rfl

theorem wrM (i : Fin 16) (v : Word) : Statement (.wrM i v) := of_write _ (.m i) v fun _ => rfl

theorem rdDigest (i : Fin 8) : Statement (.rdDigest i) := of_read _ (.digest i) fun _ => rfl

theorem wrDigest (i : Fin 8) (v : Word) : Statement (.wrDigest i v) := of_write _ (.digest i) v fun _ => rfl

theorem rdHex (k : Fin 16) : Statement (.rdHex k) := of_read _ (.hex k) fun _ => rfl

theorem wrHex (k : Fin 16) (v : Word) : Statement (.wrHex k v) := of_write _ (.hex k) v fun _ => rfl

end Sys2Proof.Laws.EncodesInWindow
end

