-- ==== Sys2Proof/Tests/Slice0.lean ====
section
/-! SUPPORT. The model's own tests: small, each on one operation or one step; expected values are the vectors of 95_test_vectors.md,
whose ids stand in the docstrings, or words written out from 30_encoding.md. Then one witness for each statement with hypotheses. -/

namespace Sys2Proof.Tests

set_option Elab.async false

open Sys2Proof.Machine

/-! ## Helpers -/

/-- A field of the state an answer leads to. -/
def after {α : Type} (f : State → α) : Answer → Option α
  | .next s => some (f s)
  | .fault _ => none
  | .refused _ => none

/-- The parsed block of pad("abc") (section 2.3). -/
def abcBlock : Block := #v[0x61626380, 0, 0, 0, 0, 0, 0, 0, 0, 0, 0, 0, 0, 0, 0, 0x00000018]

/-- The digest state of "abc" (V-COMP-1). -/
def abcHash : Hash := #v[0xba7816bf, 0x8f01cfea, 0x414140de, 0x5dae2223, 0xb00361a3, 0x96177a9c, 0xb410ff61, 0xf20015ad]

/-- The end state of program P1: STATUS 00000006 (section 2.9, "abc-final"). -/
def abcFinal : State :=
  { State.reset with H := abcHash, phase := .finalized, dv := true, msglen := 3, dataIn := 0x61626300 }

/-- A job of the given blocks, just started by FINAL. -/
def busyWith (B : Block) (rest : List Block) : State :=
  { State.reset with
    Q := B :: rest, setdv := true, phase := .finalized, msglen := 3, working := seedWorking initialHash, window := B, t := 0 }

/-- Just after the FINAL of "abc": STATUS 00000005. -/
def busy : State := busyWith abcBlock []

/-- The same machine with the head block's 64 rounds done. -/
def atAddBack (rest : List Block) : State := { busyWith abcBlock rest with t := 64 }

/-- A stream whose BUF holds n bytes 'a' and whose length is the given one. -/
def streaming (n len : Nat) (dataIn : Word) : State :=
  { State.reset with buf := List.replicate n 0x61, msglen := BitVec.ofNat 61 len, dataIn := dataIn }

/-- The state of V-CMD-18: MSGLEN = 2^61 − 2, 62 bytes in BUF. -/
def nearlyTooLarge : State := streaming 62 (2 ^ 61 - 2) 0

/-- After V-CMD-18: STATUS 00000488. -/
def failed : State := { nearlyTooLarge with phase := .error, errTooLarge := true, cause := some .inputTooLarge }

/-- A state with one event to come. -/
def withEvent (s : State) (e : Event) : State := { s with pending := [e] }

/-- A 32-bit write at an offset, BASE = 0. -/
def write (off : Nat) (v : Word) : Event := .access { dir := .write, addr := off, width := 32, data := v }

/-- A 32-bit read at an offset, BASE = 0. -/
def read (off : Nat) : Event := .access { dir := .read, addr := off, width := 32, data := 0 }

/-! ## Well-formedness: the one check, and the term it refuses -/

theorem test_wellFormed_refuses_legal_wrCmd : (Instr.wrCmd 0x00000042).wellFormed = false := by decide
theorem test_wellFormed_accepts_illegal_wrCmd : (Instr.wrCmd 0x00000052).wellFormed = true := by decide

/-! ## Decoding: a word for every operation, written out from R70 to R72 and R77 -/

theorem test_decode_nop : decodeTableWord 32 0b00000000000000000000000000000000 = some .nop := by decide
theorem test_decode_init : decodeTableWord 32 0b00000000000000000000000000000001 = some .init := by decide
theorem test_decode_append1 : decodeTableWord 32 0b00000000000000000000000000010010 = some .append1 := by decide
theorem test_decode_append2 : decodeTableWord 32 0b00000000000000000000000000100010 = some .append2 := by decide
theorem test_decode_append3 : decodeTableWord 32 0b00000000000000000000000000110010 = some .append3 := by decide
theorem test_decode_append4 : decodeTableWord 32 0b00000000000000000000000001000010 = some .append4 := by decide
theorem test_decode_final : decodeTableWord 32 0b00000000000000000000000000000011 = some .final := by decide
theorem test_decode_compress : decodeTableWord 32 0b00000000000000000000000000000100 = some .compress := by decide
theorem test_decode_illegal : decodeTableWord 32 0b00000000000000000000000010000000 = some (.wrCmd 0x80) := by decide
theorem test_decode_reads :
    decodeTableWord 16 0b000000000000 = some .rdCmd ∧ decodeTableWord 16 0b000000000100 = some .rdStatus ∧
    decodeTableWord 16 0b000000001000 = some .rdDataIn ∧ decodeTableWord 16 0b000000001100 = some .rdMsglenLo ∧
    decodeTableWord 16 0b000000010000 = some .rdMsglenHi ∧ decodeTableWord 16 0b000001010100 = some (.rdH 5) ∧
    decodeTableWord 16 0b000010110100 = some (.rdM 13) ∧ decodeTableWord 16 0b000100001100 = some (.rdDigest 3) ∧
    decodeTableWord 16 0b000101100100 = some (.rdHex 9) := by decide
theorem test_decode_writes :
    decode 0 { dir := .write, addr := 0b000000000000, width := 32, data := 5 } = .ok (.wrCmd 5) ∧
    decode 0 { dir := .write, addr := 0b000000000100, width := 32, data := 7 } = .ok (.wrStatus 7) ∧
    decode 0 { dir := .write, addr := 0b000000001000, width := 32, data := 7 } = .ok (.wrDataIn 7) ∧
    decode 0 { dir := .write, addr := 0b000000001100, width := 32, data := 7 } = .ok (.wrMsglenLo 7) ∧
    decode 0 { dir := .write, addr := 0b000000010000, width := 32, data := 7 } = .ok (.wrMsglenHi 7) ∧
    decode 0 { dir := .write, addr := 0b000001010100, width := 32, data := 7 } = .ok (.wrH 5 7) ∧
    decode 0 { dir := .write, addr := 0b000010110100, width := 32, data := 7 } = .ok (.wrM 13 7) ∧
    decode 0 { dir := .write, addr := 0b000100001100, width := 32, data := 7 } = .ok (.wrDigest 3 7) ∧
    decode 0 { dir := .write, addr := 0b000101100100, width := 32, data := 7 } = .ok (.wrHex 9 7) := by decide
/-- V-BUS-1 to V-BUS-3, and an address outside the window. -/
theorem test_decode_bus_errors :
    decode 0 { dir := .read, addr := 0x002, width := 32, data := 0 } = .error (.busError .misaligned) ∧
    decode 0 { dir := .read, addr := 0x004, width := 8, data := 0 } = .error (.busError .width) ∧
    ([0x014, 0x03C, 0x060, 0x0C0, 0x120, 0x180, 0xFFC].all fun a =>
      decode 0 { dir := .read, addr := a, width := 32, data := 0 } == .error (.busError .unmapped)) = true ∧
    decode 1 { dir := .read, addr := 0xFFC, width := 32, data := 0 } = .error .outsideWindow := by decide

/-! ## Word functions (V-FN) -/

/-- V-FN-1, row 12345678. -/
theorem test_sigmas :
    smallSigma0 0x12345678 = 0xe7fce6ee ∧ smallSigma1 0x12345678 = 0xa1f78649 ∧ bigSigma0 0x12345678 = 0x66146474 ∧
    bigSigma1 0x12345678 = 0x3561abda := by decide
/-- V-FN-2 and V-FN-3. -/
theorem test_rotr_shr : rotr 0x12345678 7 = 0xf02468ac ∧ rotr 0x00000001 25 = 0x00000080 ∧ shr 0x80000001 3 = 0x10000000 := by decide
/-- V-FN-6, and Words from the middle of two rows of the table of R130. -/
theorem test_rom :
    roundConstant 0 = 0x428a2f98 ∧ roundConstant 7 = 0xab1c5ed5 ∧ roundConstant 8 = 0xd807aa98 ∧ roundConstant 21 = 0x4a7484aa ∧
    roundConstant 63 = 0xc67178f2 := by decide
/-- V-FN-4, row ff00ff00. -/
theorem test_ch_maj :
    ch 0xff00ff00 0x0f0f0f0f 0x33333333 = 0x0f330f33 ∧ maj 0xff00ff00 0x0f0f0f0f 0x33333333 = 0x3f033f03 := by decide
/-- V-ROUND-1, row t = 0. -/
theorem test_round0 :
    let v := mixRound (seedWorking initialHash) (roundConstant 0) 0x61626380
    temp1 (seedWorking initialHash) (roundConstant 0) 0x61626380 = 0x54da50e8 ∧ temp2 (seedWorking initialHash) = 0x08909ae5 ∧
    v.a = 0x5d6aebcd ∧ v.b = 0x6a09e667 ∧ v.e = 0xfa2a4622 ∧ v.h = 0x1f83d9ab := by decide
/-- V-SCHED-1, the last row's ends. -/
theorem test_schedule_abc : scheduleWord abcBlock 16 = 0x61626380 ∧ scheduleWord abcBlock 63 = 0x12b1edeb := by decide +kernel
/-- V-COMP-1. -/
theorem test_compress_abc : compress initialHash abcBlock = abcHash := by decide +kernel
/-- V-COMP-4: all ones, where every sum wraps. -/
theorem test_compress_ones : compress (Vector.replicate 8 0xffffffff) (Vector.replicate 16 0xffffffff) =
    #v[0x0598127a, 0xaf11706e, 0x77401fff, 0xd730c549, 0x0b84c867, 0xa98c6ca3, 0xd7f3c0f9, 0x06a78b79] := by decide +kernel

/-! ## Padding, parsing, formatting -/

/-- V-PAD, column z. -/
theorem test_padZeros : [0, 1, 3, 55, 56, 57, 63, 64, 65, 119, 120, 128].map padZeros =
    [55, 54, 52, 0, 63, 62, 56, 55, 54, 0, 63, 55] := by decide
/-- V-PAD-B and section 2.3: pad("abc") and its parse. -/
theorem test_pad_parse_abc :
    padTail [0x61, 0x62, 0x63] 3 = [0x61, 0x62, 0x63, 0x80] ++ List.replicate 52 0 ++ [0, 0, 0, 0, 0, 0, 0, 0x18] ∧
    parseChunk (padTail [0x61, 0x62, 0x63] 3) = abcBlock := by decide +kernel
/-- V-FMT-1 and V-FMT-3. -/
theorem test_hex :
    readHex abcFinal 0 = 0x62613738 ∧ readHex abcFinal 1 = 0x31366266 ∧ readHex abcFinal 15 = 0x31356164 ∧
    hexWord 0x0a1b = 0x30613162 ∧ hexWord 0x2c3d = 0x32633364 := by decide
theorem test_serialize : (serialize abcHash).take 6 = [0xba, 0x78, 0x16, 0xbf, 0x8f, 0x01] := by decide

/-! ## Commands (V-CMD), each one operation -/

/-- V-CMD-2 and V-CMD-23. -/
theorem test_nop : after statusWord (exec .nop State.reset) = some 0 ∧ after statusWord (exec .nop failed) = some 0x488 := by decide
/-- V-CMD-14 and V-CMD-24: INIT clears every flag and leaves ERROR. -/
theorem test_init :
    after statusWord (exec .init failed) = some 0 ∧ after (fun s => (s.H, s.msglen, s.buf)) (exec .init failed) = some (initialHash, 0, []) := by
  decide
/-- V-CMD-12: INIT with NB = 1 is illegal. -/
theorem test_init_with_nb : after statusWord (exec (.wrCmd 0x11) State.reset) = some 0x110 := by decide
/-- V-CMD-5: APPEND.1 in FINALIZED is SEQUENCE, and DV stays 1. -/
theorem test_append1_finalized : after (fun s => (statusWord s, s.msglen)) (exec .append1 abcFinal) = some (0x346, 3) := by decide
/-- V-CMD-19 and V-CMD-18: the last byte that fits, and one more. -/
theorem test_append_limit :
    after (fun s => (statusWord s, msglenLo s.msglen, msglenHi s.msglen)) (exec .append1 nearlyTooLarge) =
      some (0, 0xffffffff, 0x1fffffff) ∧
    after (fun s => (statusWord s, msglenLo s.msglen, msglenHi s.msglen)) (exec .append2 nearlyTooLarge) =
      some (0x488, 0xfffffffe, 0x1fffffff) := by decide +kernel
/-- V-PAD-S, row 1 (R74's example). -/
theorem test_append3 :
    after (fun s => (s.buf, s.msglen, statusWord s)) (exec .append3 (streaming 0 0 0x61626300)) = some ([0x61, 0x62, 0x63], 3, 0) := by
  decide
/-- V-PAD-S, row 3: the second byte fills BUF. -/
theorem test_append4_fills :
    after (fun s => (s.buf, s.msglen, statusWord s, s.Q)) (exec .append4 (streaming 62 62 0x62636465)) =
      some ([0x64, 0x65], 66, 1, [(Vector.replicate 16 0x61616161).set 15 0x61616263]) := by decide +kernel
/-- V-CMD-4 and V-CMD-6. -/
theorem test_final :
    after statusWord (exec .final State.reset) = some 5 ∧ after statusWord (exec .final abcFinal) = some 0x346 := by decide +kernel
/-- V-PAD-S, last row: 56 bytes make two blocks. -/
theorem test_final_two_blocks : after (fun s => s.Q.length) (exec .final (streaming 56 56 0)) = some 2 := by decide +kernel
/-- V-CMD-7: DV is cleared at acceptance. -/
theorem test_compress : after (fun s => (statusWord s, s.Q)) (exec .compress abcFinal) = some (5, [Vector.replicate 16 0]) := by decide
/-- V-CMD-21 and V-CMD-22: SEQUENCE in ERROR, CAUSE stays 4. -/
theorem test_error_phase :
    after statusWord (exec .final failed) = some 0x4c8 ∧ after statusWord (exec .compress failed) = some 0x4c8 := by decide +kernel
/-- V-CMD-8 and V-CMD-13: an illegal word; the first error stays in CAUSE. -/
theorem test_wrCmd_illegal :
    after statusWord (exec (.wrCmd 5) State.reset) = some 0x110 ∧
    after statusWord (exec (.wrCmd 5) { abcFinal with errSeq := true, cause := some .sequence }) = some 0x356 := by decide
/-- V-CMD-15: BUSY_WRITE before ILLEGAL_CMD. -/
theorem test_wrCmd_busy : after statusWord (exec (.wrCmd 0xff) busy) = some 0x225 := by decide

/-! ## Register accesses -/

/-- V-BUS-5, V-BUS-9, and the length of P1. -/
theorem test_plain_reads :
    after (fun s => s.response) (exec .rdCmd abcFinal) = some (.data 0) ∧
    after (fun s => s.response) (exec .rdMsglenLo abcFinal) = some (.data 3) ∧
    after (fun s => s.response) (exec .rdMsglenHi nearlyTooLarge) = some (.data 0x1fffffff) ∧
    after (fun s => s.response) (exec .rdDataIn abcFinal) = some (.data 0x61626300) := by decide
/-- STATUS in the states of section 2.9. -/
theorem test_status :
    after (fun s => s.response) (exec .rdStatus abcFinal) = some (.data 6) ∧
    after (fun s => s.response) (exec .rdStatus failed) = some (.data 0x488) := by decide
/-- V-BUS-8. -/
theorem test_rdH : after (fun s => s.response) (exec (.rdH 2) State.reset) = some (.data 0x3c6ef372) := by decide
/-- V-CMD-25: an H write clears DV, and DIGEST and HEX read 0. -/
theorem test_wrH :
    after (fun s => (statusWord s, s.H[3], s.H[4], readDigest s 0, readHex s 0)) (exec (.wrH 3 0) abcFinal) =
      some (4, 0, 0xb00361a3, 0, 0) := by decide
/-- V-CMD-16: an H write while busy is ignored. -/
theorem test_wrH_busy : after (fun s => (s.H[0], s.errBusy, s.cause)) (exec (.wrH 0 0) busy) =
    some (0x6a09e667, true, some .busyWrite) := by decide
/-- V-CMD-26, and reading it back. -/
theorem test_wrM : after (fun s => (statusWord s, readReg s (.m 15), readReg s (.m 14))) (exec (.wrM 15 0x18) abcFinal) = some (6, 0x18, 0) := by
  decide
/-- P7, outcome A: a DATA_IN write while busy. -/
theorem test_wrDataIn_busy : after (fun s => (statusWord s, s.dataIn)) (exec (.wrDataIn 0xdeadbeef) busy) = some (0x225, 0) := by decide
/-- V-FMT-1. -/
theorem test_rdDigest : after (fun s => s.response) (exec (.rdDigest 7) abcFinal) = some (.data 0xf20015ad) := by decide
/-- V-BUS-6, V-BUS-7 and V-CMD-17: writes to read-only registers. -/
theorem test_readOnly_writes :
    after (fun s => (statusWord s, s.response)) (exec (.wrStatus 0xffffffff) abcFinal) = some (6, .okay) ∧
    after (fun s => (s.H, s.response)) (exec (.wrDigest 0 1) abcFinal) = some (abcHash, .okay) ∧
    after (fun s => (s.H, s.response)) (exec (.wrHex 0 1) abcFinal) = some (abcHash, .okay) ∧
    after (fun s => (s.msglen, s.response)) (exec (.wrMsglenLo 9) abcFinal) = some (3, .okay) ∧
    after (fun s => (s.msglen, s.response)) (exec (.wrMsglenHi 9) abcFinal) = some (3, .okay) ∧
    after statusWord (exec (.wrStatus 1) busy) = some 5 := by decide

/-! ## Steps -/

/-- V-BUS-4: a bus error while busy sets no flag. -/
theorem test_step_busError :
    after (fun s => (statusWord s, s.response)) (step (withEvent busy (write 0x014 0xffffffff))) = some (5, .busError) := by decide
/-- V-RST-2 and V-RST-3. -/
theorem test_step_reset :
    after (fun s => (statusWord s, s.H, s.Q)) (step (withEvent busy .reset)) = some (0, initialHash, []) ∧
    after (fun s => (statusWord s, s.msglen, s.buf)) (step (withEvent failed .reset)) = some (0, 0, []) := by decide
/-- A table word placed by `withFetchWord` runs in the next step: FINAL, and RD_H[5]. -/
theorem test_withFetchWord :
    after statusWord (step (State.reset.withFetchWord 32 3)) = some 5 ∧
    after (fun s => s.response) (step (State.reset.withFetchWord 16 0x054)) = some (.data 0x9b05688c) := by decide +kernel

/-! ## Witnesses: each shows states and operands that meet the hypotheses of the statement it is named after, all together, clause by
clause -/

theorem busyWith_inBlock (B : Block) (rest : List Block) : (busyWith B rest).InBlock B := inBlock_of_load _ B rfl rfl rfl

/-- The invariant of a job just started by FINAL. -/
theorem busyWith_inv (B : Block) (rest : List Block) (h : rest.length ≤ 1) : (busyWith B rest).Inv where
  bufCounted := by simp [busyWith]
  bufFinal := fun _ => rfl
  queueBound := by simp only [busyWith, List.length_cons]; omega
  twoBlocks := fun _ => rfl
  setdvJob := fun _ => ⟨by simp [busyWith], rfl⟩
  dvFinal := by simp [busyWith, State.reset]
  errorPhase := by simp [busyWith]
  causeNone := by
    refine ⟨fun _ c => ?_, fun _ => rfl⟩
    cases c <;> rfl
  causeFlag := by simp [busyWith, State.reset]
  inBlock := by
    intro B' rest' hq
    cases hq
    exact busyWith_inBlock B rest

/-- The invariant of a stream between APPENDs. -/
theorem streaming_inv (n len : Nat) (v : Word) (h : n = len % 2 ^ 61 % 64) : (streaming n len v).Inv where
  bufCounted := by intro _; simp [streaming, h]
  bufFinal := by simp [streaming, State.reset]
  queueBound := by simp [streaming, State.reset]
  twoBlocks := by simp [streaming, State.reset]
  setdvJob := by simp [streaming, State.reset]
  dvFinal := by simp [streaming, State.reset]
  errorPhase := by simp [streaming, State.reset]
  causeNone := by
    refine ⟨fun _ c => ?_, fun _ => rfl⟩
    cases c <;> rfl
  causeFlag := by simp [streaming, State.reset]
  inBlock := by simp [streaming, State.reset]

theorem busy_ne : busy.Q ≠ [] := by simp [busy, busyWith]

/-- Both BUSY = 0 and BUSY = 1, for an illegal word at each edge of R75's ranges. -/
theorem witness_IllegalCommandWordsRecordIllegalCmd :
    (∀ v ∈ [(0x5 : Word), 0xF, 0x80, 0x80000000, 0x2, 0x52, 0x72, 0x11, 0x73], ∃ e, decodeCommand v = .error e) ∧
    State.reset.Q = [] ∧ busy.Q ≠ [] := by
  refine ⟨?_, rfl, busy_ne⟩
  intro v hv
  simp only [List.mem_cons, List.not_mem_nil, or_false] at hv
  rcases hv with rfl | rfl | rfl | rfl | rfl | rfl | rfl | rfl | rfl <;> exact ⟨_, rfl⟩

/-- The edges of every mapped and unmapped range of R41, each as the statement has it. -/
theorem witness_OffsetsDecodeByTheRegisterMap :
    ([(0x014 : BitVec 12), 0x03C, 0x060, 0x07C, 0x0C0, 0x0FC, 0x120, 0x13C, 0x180, 0xFFC].all fun o => decodeReg o == none) = true ∧
    ([(0x010 : BitVec 12), 0x040, 0x05C, 0x080, 0x0BC, 0x100, 0x11C, 0x140, 0x17C].all fun o => decodeReg o != none) = true := by decide

theorem witness_DecodeInvertsEncode : (Instr.wrCmd 0xffffffff).wellFormed = true ∧ (Instr.wrM 15 0xffffffff).wellFormed = true := by
  decide

theorem witness_EncodeInvertsDecode :
    decode 7 { dir := .read, addr := 7 * 4096 + 0x17C, width := 32, data := 9 } = .ok (.rdHex 15) ∧
    decode 7 { dir := .write, addr := 7 * 4096, width := 32, data := 3 } = .ok .final := by decide

theorem witness_ResetSetsEveryElement :
    (withEvent busy .reset).pending = .reset :: [] ∧
    (abcFinal.Q = [] ∧ abcFinal.setdv = false ∧ ∃ s', exec .init abcFinal = .next s') := ⟨rfl, rfl, rfl, _, rfl⟩

theorem witness_OnlyResetAbortsAJob :
    ((withEvent busy .reset).pending = .reset :: [] ∧ (withEvent busy .reset).Q ≠ []) ∧
    (∃ s', step (atAddBack [abcBlock]) = .next s' ∧ (∀ rest, (atAddBack [abcBlock]).pending ≠ .reset :: rest) ∧
      (atAddBack [abcBlock]).Q ≠ [] ∧ s'.Q ≠ (atAddBack [abcBlock]).Q) := by
  refine ⟨⟨rfl, busy_ne⟩, _, rfl, ?_, ?_, ?_⟩ <;> simp [atAddBack, busyWith, State.reset, State.engineStep, State.addBackStep]

theorem witness_StepRunsTheNextEvent :
    decode 0 { dir := .write, addr := 0, width := 32, data := 4 } = .ok .compress ∧
    (withEvent abcFinal (write 0 4)).pending = .access { dir := .write, addr := 0, width := 32, data := 4 } :: [] ∧
    (withEvent busy .engine).pending = .engine :: [] ∧ busy.pending = [] ∧ abcFinal.Q = [] := by decide

/-- A state whose window is at BASE = 4096. -/
def atPage1 (e : Event) : State := { State.reset with basePage := 1, pending := [e] }

/-- Just below and just above the window, and an access during reset. -/
theorem witness_ForeignAndResetAccessesAreRefused :
    ((atPage1 (read 4095)).pending = read 4095 :: [] ∧ 4095 < 4096 * (atPage1 (read 4095)).basePage) ∧
    ((atPage1 (read 8192)).pending = read 8192 :: [] ∧ 4096 * (atPage1 (read 8192)).basePage + 4096 ≤ 8192) ∧
    ∃ a, (atPage1 (.accessDuringReset a)).pending = .accessDuringReset a :: [] := by
  refine ⟨by decide, by decide, ⟨.read, 4096, 32, 0⟩, rfl⟩

/-- A misaligned, a narrow and an unmapped access, each failing only that check. -/
theorem witness_BusErrorChangesNoEngineState :
    ((atPage1 (read 0x1041)).pending = .access ⟨.read, 4096 * 1 + (0x041 : BitVec 12).toNat, 32, 0⟩ :: [] ∧
      (0x041 : BitVec 12).toNat % 4 ≠ 0) ∧
    ((16 : Nat) ≠ 32 ∧ (0x040 : BitVec 12).toNat % 4 = 0 ∧ decodeReg 0x040 = some (.h 0)) ∧
    (decodeReg 0x180 = none ∧ (0x180 : BitVec 12).toNat % 4 = 0) := by decide

theorem witness_NopHasNoEffect : State.reset.Q = [] ∧ busy.Q ≠ [] := ⟨rfl, busy_ne⟩

theorem witness_InitStartsANewMessage :
    failed.Q = [] ∧ busy.Q ≠ [] ∧ (failed.phase = .error ∧ ∃ s', exec .init failed = .next s' ∧ s'.phase ≠ .error) :=
  ⟨rfl, busy_ne, rfl, _, rfl, by decide⟩

/-- Different words with the same top bytes, for the shortest and the longest APPEND that ignores a byte. -/
theorem witness_AppendBytesAreTheTopBytesOfDataIn :
    ((0x61000000 : Word).toNat / 2 ^ (32 - 8 * ByteCount.one.toNat) = (0x61ffffff : Word).toNat / 2 ^ (32 - 8 * ByteCount.one.toNat)) ∧
    ((0x61626300 : Word).toNat / 2 ^ (32 - 8 * ByteCount.three.toNat) =
      (0x616263ff : Word).toNat / 2 ^ (32 - 8 * ByteCount.three.toNat)) ∧ 3 < ByteCount.four.toNat := by decide

/-- The last byte that fits under 2^61, and the longest APPEND that does not fill BUF. -/
theorem witness_AppendThatDoesNotFillBuf :
    (nearlyTooLarge.Q = [] ∧ nearlyTooLarge.phase = .absorb ∧ nearlyTooLarge.msglen.toNat + ByteCount.one.toNat < 2 ^ 61 ∧
      nearlyTooLarge.buf.length + ByteCount.one.toNat < 64) ∧
    (streaming 59 59 0).buf.length + ByteCount.four.toNat < 64 := by decide +kernel

/-- BUF filled by the last byte, and by the first. -/
theorem witness_AppendThatFillsBufStartsAJob :
    ((streaming 60 60 0).Q = [] ∧ (streaming 60 60 0).phase = .absorb ∧
      (streaming 60 60 0).msglen.toNat + ByteCount.four.toNat < 2 ^ 61 ∧ (streaming 60 60 0).buf.length < 64 ∧
      64 ≤ (streaming 60 60 0).buf.length + ByteCount.four.toNat) ∧
    ((streaming 63 63 0).buf.length < 64 ∧ 64 ≤ (streaming 63 63 0).buf.length + ByteCount.one.toNat) := by decide +kernel

theorem witness_TooLargeAppendIsRefusedWhole :
    nearlyTooLarge.Q = [] ∧ nearlyTooLarge.phase = .absorb ∧ 2 ^ 61 ≤ nearlyTooLarge.msglen.toNat + ByteCount.two.toNat ∧
    ∃ s', exec .append1 nearlyTooLarge = .next s' := by
  refine ⟨rfl, rfl, by decide +kernel, ?_⟩
  obtain ⟨s1, h1⟩ := perform_ok (.append .one) nearlyTooLarge
  exact ⟨_, (exec_command (.append .one) _).trans (writeCmd_performed _ _ s1 rfl rfl h1)⟩

theorem witness_WhichCommandsStartAJob :
    ((streaming 60 60 0).Inv ∧ (streaming 60 60 0).Q = [] ∧ (streaming 60 60 0).phase = .absorb ∧
      (streaming 60 60 0).msglen.toNat + ByteCount.four.toNat < 2 ^ 61) ∧
    (∃ s', exec (appendInstr .four) (streaming 60 60 0) = .next s') ∧ (∃ s', exec .final (streaming 60 60 0) = .next s') ∧
    (abcFinal.phase ≠ .error ∧ ∃ s', exec .compress abcFinal = .next s') ∧ (∃ s', exec .nop abcFinal = .next s') ∧
    (∃ s', exec .init abcFinal = .next s') := by
  obtain ⟨s1, h1⟩ := perform_ok (.append .four) (streaming 60 60 0)
  obtain ⟨s2, h2⟩ := perform_ok .final (streaming 60 60 0)
  exact ⟨⟨streaming_inv 60 60 0 (by decide), rfl, rfl, by decide +kernel⟩, ⟨_, (exec_command _ _).trans (writeCmd_performed _ _ s1 rfl rfl h1)⟩,
    ⟨_, (exec_command .final _).trans (writeCmd_performed _ _ s2 rfl rfl h2)⟩, ⟨by decide, _, rfl⟩, ⟨_, rfl⟩, ⟨_, rfl⟩⟩

/-- One block at 55 bytes, two at 56 and 63. -/
theorem witness_FinalPadsAndStartsTheLastJob : ∀ n ∈ [0, 55, 56, 63],
    (streaming n n 0).Q = [] ∧ (streaming n n 0).phase = .absorb ∧ (streaming n n 0).buf.length ≤ 63 := by decide

theorem witness_CompressStartsARawJob : State.reset.Q = [] ∧ State.reset.phase ≠ .error ∧ abcFinal.phase ≠ .error := by decide

theorem witness_PhaseTableDecidesSequence :
    (abcFinal.Q = [] ∧ allowed .final abcFinal.phase = false) ∧ (failed.Q = [] ∧ allowed .compress failed.phase = false) ∧
    (allowed .compress abcFinal.phase = true ∧
      ∃ s', exec Command.compress.instr { abcFinal with errSeq := true, cause := some .sequence } = .next s' ∧ s'.errSeq = true) :=
  ⟨⟨rfl, rfl⟩, ⟨rfl, rfl⟩, rfl, _, rfl, by decide⟩

theorem witness_WritesWhileBusyAreIgnored : busy.Q ≠ [] := busy_ne

/-- For `WriteHStoresAndClearsDv`, `WriteMStores` and `WriteDataInStores`. -/
theorem witness_RegisterWrites : State.reset.Q = [] ∧ busy.Q ≠ [] ∧ ∃ s', exec (appendInstr .one) abcFinal = .next s' :=
  ⟨rfl, busy_ne, _, rfl⟩

theorem witness_PlainRegistersReadAsStored : abcFinal.Q = [] := rfl

theorem witness_ReadHWhileBusyIsAFreeValue : busy.Q ≠ [] := busy_ne

/-- The last decimal digit and the first letter (V-FMT-3), and the last character of the first Word. -/
theorem witness_HexReadsTheDigestText :
    (abcFinal.dv = true ∧ State.reset.dv = false ∧ 3 < 4 ∧ 7 < 8) ∧
    ((9 : BitVec 4).toNat < 10 ∧ hexdigit 9 = 0x39) ∧ (10 ≤ (10 : BitVec 4).toNat ∧ hexdigit 10 = 0x61) := by decide

theorem witness_DigestReadsHWhenValid : abcFinal.dv = true ∧ State.reset.dv = false := ⟨rfl, rfl⟩

theorem witness_ReadsHaveNoSideEffect :
    (isRead (.rdH 0) = true ∧ ∃ s', exec (.rdH 0) busy = .next s') ∧ (abcFinal.Q = [] ∧ ∃ s', exec (.rdH 7) abcFinal = .next s') :=
  ⟨⟨rfl, _, rfl⟩, rfl, _, rfl⟩

/-- The first and the last rotation amount. -/
theorem witness_WordFunctionsBitByBit :
    (∃ h : 1 ≤ 1 ∧ 1 ≤ 31, rotr 0x1 1 h = 0x80000000) ∧ (∃ h : 1 ≤ 31 ∧ 31 ≤ 31, rotr 0x1 31 h = 0x2) :=
  ⟨⟨by decide, by decide⟩, ⟨by decide, by decide⟩⟩

/-- The first and the last Word of the recurrence. -/
theorem witness_ScheduleFollowsTheRecurrence : (16 ≤ 16 ∧ 16 < 64) ∧ (16 ≤ 63 ∧ 63 < 64) := by decide

/-- The first Word of the window, and the last: S[0] at t = 63, S[15] at t = 48. -/
theorem witness_WindowSuppliesTheSchedule :
    busy.Q = abcBlock :: [] ∧ (0 + (0 : Fin 16).val ≤ 63 ∧ 63 + (0 : Fin 16).val ≤ 63 ∧ 48 + (15 : Fin 16).val ≤ 63) := ⟨rfl, by decide⟩

/-- The first and the last round. -/
theorem witness_RoundStepMixesTheWorkingVariables :
    (busy.t.val < 64 ∧ busy.Q ≠ []) ∧ (({ busy with t := 63 } : State).t.val < 64 ∧ ({ busy with t := 63 } : State).Q ≠ []) :=
  ⟨⟨by decide, busy_ne⟩, by decide, busy_ne⟩

/-- A last block, and a block with one more after it. -/
theorem witness_AddBackStepFoldsAndGoesOn :
    ((atAddBack []).t.val = 64 ∧ (atAddBack []).Q = [abcBlock]) ∧
    ((atAddBack [abcBlock]).t.val = 64 ∧ (atAddBack [abcBlock]).Q = abcBlock :: abcBlock :: []) := by decide

theorem witness_SixtyFiveStepsCompressTheHeadBlock : (busyWith abcBlock [abcBlock]).Q = abcBlock :: [abcBlock] := rfl

theorem witness_JobResultSurvivesEveryInterleaving :
    busy.Inv ∧ busy.Q ≠ [] ∧ (∀ rest, busy.pending ≠ .reset :: rest) ∧ ∃ s', step busy = .next s' :=
  ⟨busyWith_inv _ _ (by decide), busy_ne, by simp [busy, busyWith, State.reset], _, rfl⟩

/-- A job of one block and a job of two. -/
theorem witness_PendingJobCompletesWithin130Steps :
    (busy.Inv ∧ busy.Q ≠ [] ∧ busy.pending = [] ∧ 64 < 65 * busy.Q.length - busy.t.val) ∧
    ((busyWith abcBlock [abcBlock]).Inv ∧ 65 * (busyWith abcBlock [abcBlock]).Q.length - (busyWith abcBlock [abcBlock]).t.val = 130) :=
  ⟨⟨busyWith_inv _ _ (by decide), busy_ne, rfl, by decide⟩, busyWith_inv _ _ (by decide), by decide⟩

/-- Lengths at the extremes of the overhead, and the first length that is too large. -/
theorem witness_PaddedMessageLength :
    (List.replicate 55 (0 : Byte)).length < 2 ^ 61 ∧ (List.replicate 56 (0 : Byte)).length < 2 ^ 61 ∧
    2 ^ 61 ≤ (List.replicate (2 ^ 61) (0 : Byte)).length ∧ (7 : Nat) < 8 ∧ 2 ^ 64 - 1 < 2 ^ 64 := by
  simp only [List.length_replicate]
  omega

/-- A length that is no multiple of 64, and one block whose bytes all exist. -/
theorem witness_ParseIsBigEndianAndOrdered :
    ([0x61] : List Byte).length % 64 ≠ 0 ∧
    ∃ p : List Byte, p.length % 64 = 0 ∧ parse p = .ok [abcBlock] ∧ p[64 * 0 + 4 * 15 + 3]? = some 0x18 := by
  refine ⟨by decide, padTail [0x61, 0x62, 0x63] 3, by decide +kernel, ?_, by decide +kernel⟩
  rw [parse_chunk _ (by decide +kernel), test_pad_parse_abc.2]

theorem witness_PadTailCompletesThePaddedMessage : (3 : BitVec 61).toNat = ([0x61, 0x62, 0x63] : List Byte).length := by decide

/-- The host behaviour of P1, step by step, up to the last APPEND. -/
theorem streams_abc : ∃ s, Streams [0x61, 0x62, 0x63] s ∧ s.Q = [] ∧ s.H = initialHash ∧ s.buf = [0x61, 0x62, 0x63] ∧ s.msglen = 3 := by
  have h0 := Streams.init State.reset _ rfl rfl
  have h1 := Streams.dataIn _ _ _ 0x61626300 h0 rfl rfl
  have h2 := Streams.append _ _ _ .three h1 rfl (by decide) rfl
  exact ⟨_, h2, rfl, rfl, rfl, rfl⟩

theorem witness_StreamingKeepsThePaddingInvariant : ∃ s, Streams [0x61, 0x62, 0x63] s := by
  obtain ⟨s, h, _⟩ := streams_abc
  exact ⟨s, h⟩

/-- The engine's turns are waiting. -/
theorem finalizes_engineSteps (m : List Byte) (n : Nat) : ∀ s : State, Finalizes m s → Finalizes m (s.engineSteps n) := by
  induction n with
  | zero => exact fun _ h => h
  | succ n ih => exact fun s h => ih _ (.wait m s _ h (.engine s))

/-- The job of P2, step 4: FINAL of the empty message. -/
def emptyJob : State := { busyWith ((Vector.replicate 16 0).set 0 0x80000000) [] with msglen := 0, response := .okay }

theorem finalizes_emptyJob : Finalizes [] emptyJob :=
  .final _ { State.reset with response := .okay } _ (.init State.reset _ rfl rfl) rfl rfl

/-- V-DIG-1. -/
theorem emptyJob_done : (emptyJob.engineSteps 65).Q = [] ∧ (emptyJob.engineSteps 65).H[0] = 0xe3b0c442 ∧
    (emptyJob.engineSteps 65).H[7] = 0x7852b855 := by decide +kernel

/-- The job of P1, step 7: FINAL of "abc". -/
def abcJob : State := { busy with dataIn := 0x61626300, response := .okay }

theorem finalizes_abcJob : Finalizes [0x61, 0x62, 0x63] abcJob := by
  have h0 := Streams.init State.reset _ rfl rfl
  have h1 := Streams.dataIn _ _ _ 0x61626300 h0 rfl rfl
  have h2 := Streams.append _ _ _ .three h1 rfl (by decide) rfl
  exact .final _ _ _ h2 rfl rfl

/-- V-DIG-2. -/
theorem abcJob_done : (abcJob.engineSteps 65).Q = [] ∧ (abcJob.engineSteps 65).H = abcHash := by decide +kernel

/-- P2 and P1: the empty message, and "abc", each with FINAL and then 65 engine steps. -/
theorem witness_StreamedDigestIsTheDigest :
    (∃ s, Finalizes [] s ∧ s.Q = []) ∧ (∃ s, Finalizes [0x61, 0x62, 0x63] s ∧ s.Q = []) :=
  ⟨⟨_, finalizes_engineSteps _ 65 _ finalizes_emptyJob, emptyJob_done.1⟩,
    ⟨_, finalizes_engineSteps _ 65 _ finalizes_abcJob, abcJob_done.1⟩⟩

theorem witness_SerializeIsBigEndian : (0 : Nat) < 4 ∧ 3 < 4 := by decide

theorem witness_StepKeepsTheInvariant : busy.Inv ∧ ∃ s', step busy = .next s' := ⟨busyWith_inv _ _ (by decide), _, rfl⟩

/-- H changes by an INIT, by an H write, and by an add-back. -/
theorem witness_RunningStateChangesOnlyByItsFourWriters :
    (∃ s', step (withEvent abcFinal (write 0x000 1)) = .next s' ∧ s'.H ≠ (withEvent abcFinal (write 0x000 1)).H) ∧
    (∃ s', step (withEvent abcFinal (write 0x05C 1)) = .next s' ∧ s'.H ≠ (withEvent abcFinal (write 0x05C 1)).H) ∧
    (∃ s', step (atAddBack []) = .next s' ∧ s'.H ≠ (atAddBack []).H) :=
  ⟨⟨_, rfl, by decide +kernel⟩, ⟨_, rfl, by decide +kernel⟩, ⟨_, rfl, by decide +kernel⟩⟩

theorem witness_InputRegistersChangeOnlyByTheirWrites :
    (∃ s', step (atPage1 .reset) = .next s' ∧ (atPage1 .reset).basePage = 1) ∧
    (∃ s', step (withEvent abcFinal (write 0x0BC 1)) = .next s' ∧ (∀ rest, (withEvent abcFinal (write 0x0BC 1)).pending ≠ .reset :: rest) ∧
      s'.M[15] ≠ (withEvent abcFinal (write 0x0BC 1)).M[15]) ∧
    (∃ s', step (withEvent abcFinal (write 0x008 1)) = .next s' ∧ s'.dataIn ≠ (withEvent abcFinal (write 0x008 1)).dataIn) :=
  ⟨⟨_, rfl, rfl⟩, ⟨_, rfl, by simp [withEvent, write], by decide +kernel⟩, ⟨_, rfl, by decide +kernel⟩⟩

/-- DV set by the completion of a FINAL job; cleared by COMPRESS. -/
theorem witness_DigestValidIsSetAndClearedAsStated :
    (∃ s', step (atAddBack []) = .next s' ∧ (atAddBack []).dv = false ∧ s'.dv = true) ∧
    (∃ s', step (withEvent abcFinal (write 0x000 4)) = .next s' ∧ (withEvent abcFinal (write 0x000 4)).dv = true ∧ s'.dv = false) :=
  ⟨⟨_, rfl, by decide +kernel⟩, ⟨_, rfl, by decide +kernel⟩⟩

/-- PHASE changed by FINAL, by an APPEND that is too large, and by INIT. -/
theorem witness_PhaseChangesAsStated :
    after State.phase (step (withEvent State.reset (write 0x000 3))) = some .finalized ∧
    after State.phase (step (withEvent nearlyTooLarge (write 0x000 0x22))) = some .error ∧
    after State.phase (step (withEvent failed (write 0x000 1))) = some .absorb := by decide +kernel

theorem witness_ErrorsStayUntilInitOrReset :
    (∃ s', step (withEvent failed (write 0x000 4)) = .next s') ∧ (∀ rest, (withEvent failed (write 0x000 4)).pending ≠ .reset :: rest) ∧
    decode (withEvent failed (write 0x000 4)).basePage { dir := .write, addr := 0, width := 32, data := 4 } ≠ .ok .init ∧
    (withEvent failed (write 0x000 4)).errorFlag .inputTooLarge = true ∧ (withEvent failed (write 0x000 4)).errorFlag .sequence = false ∧
    after (fun s => s.errorFlag .sequence) (step (withEvent failed (write 0x000 4))) = some true :=
  ⟨⟨_, rfl⟩, by simp [withEvent, write], by decide, rfl, rfl, by decide +kernel⟩

theorem witness_NoPartialDigest : State.reset.dv = false ∧ (busy.Inv ∧ busy.Q ≠ []) ∧
    ((streaming 1 1 0).Inv ∧ (streaming 1 1 0).phase ≠ .finalized) :=
  ⟨rfl, ⟨busyWith_inv _ _ (by decide), busy_ne⟩, streaming_inv 1 1 0 (by decide), by decide⟩

theorem witness_HiddenStateIsNeverObserved : HiddenEq abcFinal { abcFinal with t := 64, window := abcBlock } :=
  .inr ⟨rfl, abcFinal.working, abcBlock, 64, rfl⟩

end Sys2Proof.Tests
end

section
/-! PROOFS. Writes to the read-only registers (20_memory.md rule R56). -/

namespace Sys2Proof

/-- The registers R56 gives no write effect. -/
def Reg.readOnly : Reg → Bool
  | .status | .msglenLo | .msglenHi | .digest _ | .hex _ => true
  | .cmd | .dataIn | .h _ | .m _ => false

namespace Machine

/-- An ignored write leaves all but the response as it was: it does not ask whether the engine is busy. -/
theorem ignoredWrite_eq (s : State) : ignoredWrite s = .next { s with response := .okay } := rfl

/-- The one meaning shared by the write arms of the read-only registers. -/
theorem exec_writeInstr_of_readOnly (v : Word) (r : Reg) (s : State) (hr : r.readOnly = true) :
    exec (writeInstr v r) s = ignoredWrite s := by
  cases r with
  | status => rfl
  | msglenLo => rfl
  | msglenHi => rfl
  | digest i => rfl
  | hex k => rfl
  | cmd => cases hr
  | dataIn => cases hr
  | h i => cases hr
  | m i => cases hr

/-- Settles O28: each of the five kinds of write is the write of a read-only register. -/
theorem writesToReadOnlyRegistersAreIgnored : Obligations.WritesToReadOnlyRegistersAreIgnored := by
  intro v s
  have ignored (r : Reg) (hr : r.readOnly = true) : exec (writeInstr v r) s = .next { s with response := .okay } :=
    (exec_writeInstr_of_readOnly v r s hr).trans (ignoredWrite_eq s)
  exact ⟨ignored .status rfl, ignored .msglenLo rfl, ignored .msglenHi rfl,
    fun i => ignored (.digest i) rfl, fun k => ignored (.hex k) rfl⟩

end Machine
end Sys2Proof
end

section
/-! PROOFS. The legal and the illegal command words, and the bytes of an APPEND (30_encoding.md rules R72, R74 and R75). -/

namespace Sys2Proof

/-- Settles O1: the words that decode are the members of `legalCommandWords`, and each is the word of its command. -/
theorem legalCommandWordsAreExactlyEight : Obligations.LegalCommandWordsAreExactlyEight := by
  refine ⟨fun v => ?_, decodeCommand_word .nop, decodeCommand_word .init, decodeCommand_word (.append .one),
    decodeCommand_word (.append .two), decodeCommand_word (.append .three), decodeCommand_word (.append .four),
    decodeCommand_word .final, decodeCommand_word .compress⟩
  rw [← mem_legalCommandWords_iff_decodes]
  simp [legalCommandWords]

/-- The decoder is total, so the words it rejects are the words that are not legal (R76). -/
theorem decodeCommand_rejects_iff (v : Word) : (∃ e, decodeCommand v = .error e) ↔ v ∉ legalCommandWords := by
  rw [mem_legalCommandWords_iff_decodes]
  cases decodeCommand v with
  | ok c => simp
  | error e => simp

theorem mem_legalCommandWords_iff_toNat (v : Word) : v ∈ legalCommandWords ↔
    v.toNat = 0x00 ∨ v.toNat = 0x01 ∨ v.toNat = 0x12 ∨ v.toNat = 0x22 ∨ v.toNat = 0x32 ∨ v.toNat = 0x42 ∨
      v.toNat = 0x03 ∨ v.toNat = 0x04 := by
  simp [legalCommandWords, ← BitVec.toNat_inj]

/-- R72 against R73: a word is legal exactly when RSV is 0 and OPC is a command's with the NB that command requires. -/
theorem mem_legalCommandWords_iff_fields (v : Word) : v ∈ legalCommandWords ↔
    v.toNat / 128 = 0 ∧
      ((v.toNat % 16 = 2 ∧ 1 ≤ v.toNat / 16 % 8 ∧ v.toNat / 16 % 8 ≤ 4) ∨
        (v.toNat % 16 < 5 ∧ v.toNat % 16 ≠ 2 ∧ v.toNat / 16 % 8 = 0)) := by
  rw [mem_legalCommandWords_iff_toNat]
  omega

namespace Machine

theorem errorAnswer_illegalCmd (s : State) : errorAnswer .illegalCmd s =
    .next { s with errIllegal := true, cause := some (s.cause.getD .illegalCmd), response := .okay } := by
  rw [errorAnswer, raise_illegalCmd]
  rfl

theorem errorAnswer_busyWrite (s : State) : errorAnswer .busyWrite s =
    .next { s with errBusy := true, cause := some (s.cause.getD .busyWrite), response := .okay } := by
  rw [errorAnswer, raise_busyWrite]
  rfl

/-- Settles O2: illegal is the negation of the field conditions of a legal word; the write records the error of the first check it
fails, in the order of R180. -/
theorem illegalCommandWordsRecordIllegalCmd : Obligations.IllegalCommandWordsRecordIllegalCmd := by
  refine ⟨fun v => ?_, fun v e s hd hq => ?_, fun v e s _ hq => ?_⟩
  · rw [decodeCommand_rejects_iff, mem_legalCommandWords_iff_fields]
    omega
  · rw [exec_wrCmd, hd, writeCmd_illegal e s hq, errorAnswer_illegalCmd]
  · rw [exec_wrCmd, writeCmd_busy _ s hq, errorAnswer_busyWrite]

theorem getD_appendBytes (n : ByteCount) (w : Word) (j : Nat) (h : j < n.toNat) : (appendBytes n w).getD j 0 = wordByte w j := by
  simp [appendBytes, h]

/-- Byte j of a Word lies within its first n bytes when j < n: it is read from the Word without the bits below them. -/
theorem toNat_wordByte_of_lt (w : Word) (n j : Nat) (hj : j < n) (hn : n ≤ 4) :
    (wordByte w j).toNat = w.toNat / 2 ^ (32 - 8 * n) / 2 ^ (8 * (n - 1 - j)) % 256 := by
  have hexp : 24 - 8 * j = (32 - 8 * n) + 8 * (n - 1 - j) := by omega
  rw [toNat_wordByte, hexp, Nat.pow_add, Nat.div_div_eq_div_mul]

theorem appendBytes_congr (n : ByteCount) (w w' : Word)
    (h : w.toNat / 2 ^ (32 - 8 * n.toNat) = w'.toNat / 2 ^ (32 - 8 * n.toNat)) : appendBytes n w = appendBytes n w' := by
  refine List.map_congr_left fun j hj => BitVec.eq_of_toNat_eq ?_
  have hlt := List.mem_range.mp hj
  have hle := ByteCount.toNat_le n
  rw [toNat_wordByte_of_lt w _ j hlt hle, toNat_wordByte_of_lt w' _ j hlt hle, h]

theorem appendBytes_four (w : Word) : appendBytes .four w = bytesBE32 w := rfl

/-- Parsing the big-endian bytes of a Word gives it back (R12, R112). -/
theorem chunkWord_bytesBE32 (w : Word) : chunkWord (bytesBE32 w) 0 = w := be32_wordByte w

/-- Settles O16: each byte of an APPEND.n is a byte of the Word's first n. -/
theorem appendBytesAreTheTopBytesOfDataIn : Obligations.AppendBytesAreTheTopBytesOfDataIn := by
  refine ⟨length_appendBytes, fun n w j hj => ?_, appendBytes_congr, fun w => ⟨appendBytes_four w, ?_⟩⟩
  · rw [getD_appendBytes n w j hj, toNat_wordByte]
  · rw [appendBytes_four, chunkWord_bytesBE32]

end Machine
end Sys2Proof
end

section
/-! PROOFS. The bytes that padding appends, and the Words that the parser reads (40_padding.md rules R100 to R106 and R111 to R113). -/

namespace Sys2Proof.Machine

/-- R12 by position: byte j of BE64 is read 56 − 8j bits up. -/
theorem be64_eq_map_range (v : Nat) :
    be64 v = (List.range 8).map fun j => (BitVec.ofNat 64 v).extractLsb' (56 - 8 * j) 8 := rfl

theorem toNat_getD_be64 (v j : Nat) (hv : v < 2 ^ 64) (hj : j < 8) :
    ((be64 v).getD j 0).toNat = v / 2 ^ (56 - 8 * j) % 256 := by
  have byte : (be64 v).getD j 0 = (BitVec.ofNat 64 v).extractLsb' (56 - 8 * j) 8 := by simp [be64_eq_map_range, hj]
  rw [byte, BitVec.extractLsb'_toNat, BitVec.toNat_ofNat, Nat.mod_eq_of_lt hv, Nat.shiftRight_eq_div_pow]

theorem pad_of_tooLarge (m : List Byte) (h : 2 ^ 61 ≤ m.length) : pad m = .error .inputTooLarge := if_pos h

theorem pad_of_lt (m : List Byte) (h : m.length < 2 ^ 61) :
    pad m = .ok (m ++ [0x80] ++ List.replicate (padZeros m.length) 0 ++ be64 (8 * m.length)) := by
  rw [pad, if_neg (Nat.not_le.mpr h)]
  simp [padSuffix]

/-- Settles O46: z is `padZeros`, and the two facts that fix it (it is below 64, and it fills the block to 56) give the lengths. -/
theorem paddedMessageLength : Obligations.PaddedMessageLength := by
  refine ⟨pad_of_tooLarge, fun m hm => ?_, fun v hv => ⟨length_be64 v, fun j hj => toNat_getD_be64 v j hv hj⟩⟩
  have hlt := padZeros_lt m.length
  have hfill := padZeros_fills m.length
  exact ⟨padZeros m.length, hlt, hfill, pad_of_lt m hm, by omega, by omega, by omega⟩

theorem parse_eq_malformedInput_iff (p : List Byte) : parse p = .error .malformedInput ↔ p.length % 64 ≠ 0 := by
  refine ⟨fun h h0 => ?_, parse_of_not_multiple p⟩
  rw [parse_of_multiple p h0] at h
  cases h

theorem getElem?_chunkAt (p : List Byte) (j k : Nat) (hk : k < 64) : (chunkAt p j)[k]? = p[64 * j + k]? := by
  rw [chunkAt, List.getElem?_take_of_lt hk, List.getElem?_drop]

/-- Word i of a chunk whose bytes 4i to 4i + 3 are b0 to b3 (R112). -/
theorem getElem_parseChunk {chunk : List Byte} {i : Fin 16} {b0 b1 b2 b3 : Byte} (h0 : chunk[4 * i.val]? = some b0)
    (h1 : chunk[4 * i.val + 1]? = some b1) (h2 : chunk[4 * i.val + 2]? = some b2) (h3 : chunk[4 * i.val + 3]? = some b3) :
    (parseChunk chunk)[i] = be32 b0 b1 b2 b3 := by
  simp [parseChunk, chunkWord, List.getD, h0, h1, h2, h3]

/-- R111: block j of a parsed byte sequence is the Parse of its chunk j. -/
theorem eq_parseChunk_of_parse {p : List Byte} {bs : List Block} {j : Nat} {B : Block} (hp : parse p = .ok bs)
    (hB : bs[j]? = some B) : B = parseChunk (chunkAt p j) := by
  obtain ⟨-, rfl⟩ := parse_eq_ok p bs hp
  obtain ⟨hj, rfl⟩ := List.getElem?_eq_some_iff.mp hB
  simp

/-- Settles O47: the bytes of chunk j are those of the sequence from 64j on, and each Word is `be32` of its four. -/
theorem parseIsBigEndianAndOrdered : Obligations.ParseIsBigEndianAndOrdered := by
  refine ⟨fun p => (parse_eq_malformedInput_iff p).symm, fun p hp => ⟨_, parse_of_multiple p hp, by simp, ?_⟩⟩
  intro j i b0 b1 b2 b3 B hB h0 h1 h2 h3
  have inChunk (k : Nat) (hk : k < 4) : (chunkAt p j)[4 * i.val + k]? = p[64 * j + 4 * i.val + k]? := by
    rw [getElem?_chunkAt p j _ (by omega), Nat.add_assoc]
  rw [eq_parseChunk_of_parse (parse_of_multiple p hp) hB, ← toNat_be32,
    getElem_parseChunk ((inChunk 0 (by omega)).trans h0) ((inChunk 1 (by omega)).trans h1)
      ((inChunk 2 (by omega)).trans h2) ((inChunk 3 (by omega)).trans h3)]

end Sys2Proof.Machine
end

section
/-! PROOFS. The word functions bit by bit, and the ROM against the roots that define it (41_functions.md rules R120, R121, R124 to R132). -/

namespace Sys2Proof.Machine

/-- R120 is the rotation of the library. -/
theorem rotr_eq_rotateRight (x : Word) (n : Nat) (h : 1 ≤ n ∧ n ≤ 31) : rotr x n h = x.rotateRight n := by
  rw [rotr, BitVec.rotateRight_def, Nat.mod_eq_of_lt (by omega)]

/-- The two cases are the bits below the wrap, which come from above, and the n top bits, which come round from the bottom. -/
theorem getLsbD_rotr (x : Word) (n : Nat) (h : 1 ≤ n ∧ n ≤ 31) (i : Nat) (hi : i < 32) :
    (rotr x n h).getLsbD i = x.getLsbD ((i + n) % 32) := by
  rw [rotr_eq_rotateRight, BitVec.getLsbD_rotateRight, Nat.mod_eq_of_lt (by omega : n < 32)]
  by_cases hwrap : i < 32 - n
  · have source : (i + n) % 32 = n + i := by omega
    simp [hwrap, source]
  · have source : (i + n) % 32 = i - (32 - n) := by omega
    simp [hwrap, hi, source]

theorem toNat_shr (x : Word) (n : Nat) : (shr x n).toNat = x.toNat / 2 ^ n := by
  rw [shr, BitVec.toNat_ushiftRight, Nat.shiftRight_eq_div_pow]

/-- A shift fills with zeros: no bit comes from beyond bit 31. -/
theorem getLsbD_shr (x : Word) (n i : Nat) : (shr x n).getLsbD i = (decide (i + n < 32) && x.getLsbD (i + n)) := by
  rw [shr, BitVec.getLsbD_ushiftRight, Nat.add_comm n i]
  by_cases hin : i + n < 32
  · simp [hin]
  · simp [hin, BitVec.getLsbD_of_ge x (i + n) (by omega)]

theorem getLsbD_smallSigma0 (x : Word) (i : Nat) (hi : i < 32) : (smallSigma0 x).getLsbD i =
    ((x.getLsbD ((i + 7) % 32) ^^ x.getLsbD ((i + 18) % 32)) ^^ (decide (i + 3 < 32) && x.getLsbD (i + 3))) := by
  simp only [smallSigma0, BitVec.getLsbD_xor, getLsbD_rotr _ _ _ i hi, getLsbD_shr]

theorem getLsbD_smallSigma1 (x : Word) (i : Nat) (hi : i < 32) : (smallSigma1 x).getLsbD i =
    ((x.getLsbD ((i + 17) % 32) ^^ x.getLsbD ((i + 19) % 32)) ^^ (decide (i + 10 < 32) && x.getLsbD (i + 10))) := by
  simp only [smallSigma1, BitVec.getLsbD_xor, getLsbD_rotr _ _ _ i hi, getLsbD_shr]

theorem getLsbD_bigSigma0 (x : Word) (i : Nat) (hi : i < 32) : (bigSigma0 x).getLsbD i =
    ((x.getLsbD ((i + 2) % 32) ^^ x.getLsbD ((i + 13) % 32)) ^^ x.getLsbD ((i + 22) % 32)) := by
  simp only [bigSigma0, BitVec.getLsbD_xor, getLsbD_rotr _ _ _ i hi]

theorem getLsbD_bigSigma1 (x : Word) (i : Nat) (hi : i < 32) : (bigSigma1 x).getLsbD i =
    ((x.getLsbD ((i + 6) % 32) ^^ x.getLsbD ((i + 11) % 32)) ^^ x.getLsbD ((i + 25) % 32)) := by
  simp only [bigSigma1, BitVec.getLsbD_xor, getLsbD_rotr _ _ _ i hi]

/-- R128. Beyond bit 31 all three Words read 0, so the complement's missing bits do not matter. -/
theorem getLsbD_ch (x y z : Word) (i : Nat) :
    (ch x y z).getLsbD i = if x.getLsbD i then y.getLsbD i else z.getLsbD i := by
  by_cases hi : i < 32
  · simp only [ch, BitVec.getLsbD_xor, BitVec.getLsbD_and, BitVec.getLsbD_not, hi, decide_true, Bool.true_and]
    cases x.getLsbD i <;> simp
  · simp [BitVec.getLsbD_of_ge _ i (Nat.le_of_not_lt hi)]

/-- R129: with the bit of x given, exclusive or and inclusive or of the three products agree. -/
theorem getLsbD_maj (x y z : Word) (i : Nat) : (maj x y z).getLsbD i =
    (x.getLsbD i && y.getLsbD i || x.getLsbD i && z.getLsbD i || y.getLsbD i && z.getLsbD i) := by
  simp only [maj, BitVec.getLsbD_xor, BitVec.getLsbD_and]
  cases x.getLsbD i <;> cases y.getLsbD i <;> cases z.getLsbD i <;> rfl

/-- Settles O36: each function has its bits from those of the rotations and shifts it is made of. -/
theorem wordFunctionsBitByBit : Obligations.WordFunctionsBitByBit :=
  ⟨getLsbD_rotr, toNat_shr,
    fun x i hi => ⟨getLsbD_smallSigma0 x i hi, getLsbD_smallSigma1 x i hi, getLsbD_bigSigma0 x i hi, getLsbD_bigSigma1 x i hi⟩,
    getLsbD_ch, getLsbD_maj⟩

/-- R130 and R132 by evaluation. The integer part of the root, which the ROM does not hold, is below 8 as every prime is below 8^3. -/
theorem roundConstant_is_cubeRoot : ∀ t : Fin 64, ∃ q : Nat, q < 8 ∧
    let c := q * 2 ^ 32 + (roundConstant t).toNat
    let n := firstPrimes.getD t.val 0 * 2 ^ 96
    c ^ 3 ≤ n ∧ n < (c + 1) ^ 3 := by
  decide +kernel

/-- R131 and R132 by evaluation. -/
theorem initialHash_is_squareRoot : ∀ i : Fin 8, ∃ q : Nat, q < 8 ∧
    let c := q * 2 ^ 32 + initialHash[i].toNat
    let n := firstPrimes.getD i.val 0 * 2 ^ 64
    c ^ 2 ≤ n ∧ n < (c + 1) ^ 2 := by
  decide +kernel

theorem firstPrimes_eq_trialDivision :
    firstPrimes = (List.range 312).filter (fun n => 2 ≤ n && (List.range n).all fun d => d < 2 || n % d != 0) := by
  decide +kernel

/-- Settles O38: a closed fact in three parts, each evaluated. -/
theorem romHoldsTheRootsOfThePrimes : Obligations.RomHoldsTheRootsOfThePrimes :=
  ⟨roundConstant_is_cubeRoot, initialHash_is_squareRoot, firstPrimes_eq_trialDivision⟩

end Sys2Proof.Machine
end

section
/-! PROOFS. The schedule, the round, the add-back and a whole block (42_compression.md rules R140, R144 to R147, R150, R151, R153). -/

namespace Sys2Proof.Machine

/-! ## The add-back step -/

theorem foldHead_of_cons (s : State) (B : Block) (rest : List Block) (hq : s.Q = B :: rest) :
    s.foldHead = { s with H := addBack s.H s.working, Q := rest } := by
  simp [State.foldHead, hq]

/-- Whether it completes the job or loads the next block, the add-back step leaves the folded H (R147, R151). -/
theorem addBackStep_H (s : State) : s.addBackStep.H = addBack s.H s.working := by
  unfold State.addBackStep
  split
  · rw [State.complete_H, State.foldHead_H]
  · rw [State.load_H, State.foldHead_H]

theorem addBackStep_Q (s : State) : s.addBackStep.Q = s.Q.tail := by
  unfold State.addBackStep
  split
  · rw [State.complete_Q, State.foldHead_Q]
  · rw [State.load_Q, State.foldHead_Q]

/-- R151 with another block in Q: it is loaded from the new H (R141). -/
theorem addBackStep_of_more (s : State) (B C : Block) (rest : List Block) (hq : s.Q = B :: C :: rest) :
    s.addBackStep =
      { s with
        H := addBack s.H s.working, Q := C :: rest
        working := seedWorking (addBack s.H s.working), window := C, t := 0 } := by
  rw [addBackStep_more s B C rest hq, foldHead_of_cons s B (C :: rest) hq, State.load_cons _ C rest rfl]

/-- R151 with no other block in Q: the job completes (R149). -/
theorem addBackStep_of_last (s : State) (B : Block) (hq : s.Q = [B]) :
    s.addBackStep = { s with H := addBack s.H s.working, Q := [], dv := s.dv || s.setdv, setdv := false } := by
  rw [addBackStep_last s B hq, foldHead_of_cons s B [] hq]
  rfl

/-! ## A whole block -/

/-- The add-back of a block whose 64 rounds are done (R147, R153). -/
theorem engineStep_finishes_block (s : State) (B : Block) (rest : List Block) (hq : s.Q = B :: rest) (hi : s.InBlock B)
    (ht : s.t.val = 64) : s.engineStep.H = compress s.H B ∧ s.engineStep.Q = rest := by
  rw [engineStep_addBack s (by simp [hq]) ht]
  constructor
  · rw [addBackStep_H, addBack_inBlock s B hi ht]
  · rw [addBackStep_Q, hq, List.tail_cons]

/-- From the middle of a block, the rounds that are left and the add-back (R153). -/
theorem engineSteps_finish_block (s : State) (B : Block) (rest : List Block) (n : Nat) (hq : s.Q = B :: rest) (hi : s.InBlock B)
    (ht : s.t.val + n = 64) : (s.engineSteps (n + 1)).H = compress s.H B ∧ (s.engineSteps (n + 1)).Q = rest := by
  obtain ⟨hi', ht', frame⟩ := engineSteps_rounds B rest n s hq hi ht.le
  have hH : (s.engineSteps n).H = s.H := by rw [frame]
  have hQ : (s.engineSteps n).Q = B :: rest := by rw [frame, hq]
  have last : s.engineSteps (n + 1) = (s.engineSteps n).engineStep := engineSteps_add n 1 s
  rw [last, ← hH]
  exact engineStep_finishes_block _ B rest hQ hi' (ht'.trans ht)

/-! ## The statements -/

/-- Settles O39: the recurrence is that of the Words a schedule is extended by, from the block's 16 on. -/
theorem scheduleFollowsTheRecurrence : Obligations.ScheduleFollowsTheRecurrence := by
  intro B
  refine ⟨length_schedule B, fun t => scheduleWord_block B t.val t.isLt, fun t h16 h64 => ?_⟩
  exact getD_scheduleExtend_new 48 B.toList t (by simp) (by simpa using h16) (by simpa using h64)

/-- Settles O41: the step is a round step, and each part is one of its fields. -/
theorem roundStepMixesTheWorkingVariables : Obligations.RoundStepMixesTheWorkingVariables := by
  intro s h hq
  rw [engineStep_round s hq h]
  exact ⟨State.roundStep_working s h, getElem_windowStep s.window, getElem_windowStep_last s.window,
    congrArg Fin.val (State.roundStep_t s h), rfl⟩

/-- Settles O42: the step is an add-back step, and the two cases of Q are those of R151. -/
theorem addBackStepFoldsAndGoesOn : Obligations.AddBackStepFoldsAndGoesOn := by
  refine ⟨fun s ht hq => ?folds, fun s B C rest ht hq => ?more, fun s B ht hq => ?last⟩
  case folds => rw [engineStep_addBack s hq ht, addBackStep_H, addBack]
  case more =>
    rw [engineStep_addBack s (by simp [hq]) ht, addBackStep_of_more s B C rest hq]
    rfl
  case last => rw [engineStep_addBack s (by simp [hq]) ht, addBackStep_of_last s B hq]

/-- Settles O43: a loaded block is in progress with t = 0, so all 64 rounds are left. -/
theorem sixtyFiveStepsCompressTheHeadBlock : Obligations.SixtyFiveStepsCompressTheHeadBlock := by
  intro s B rest hq
  have ht : s.load.t.val + 64 = 64 := by rw [State.load_cons s B rest hq]; rfl
  have finished := engineSteps_finish_block s.load B rest 64 ((State.load_Q s).trans hq) (inBlock_load s B rest hq) ht
  rwa [State.load_H] at finished

/-- R144: sums of Words reduce modulo 2^32 at each `+`, and reducing once at the end is the same. -/
theorem toNat_temp1 (v : Working) (k w : Word) : (temp1 v k w).toNat =
    (v.h.toNat + (bigSigma1 v.e).toNat + (ch v.e v.f v.g).toNat + k.toNat + w.toNat) % 2 ^ 32 := by
  simp only [temp1, BitVec.toNat_add, Nat.mod_add_mod]

/-- Settles O37: the sum of T1 is reduced once in `toNat_temp1`, and T2 is a single addition of Words. -/
theorem roundTemporariesAreSumsModulo : Obligations.RoundTemporariesAreSumsModulo :=
  ⟨toNat_temp1, fun v => BitVec.toNat_add (bigSigma0 v.a) (maj v.a v.b v.c)⟩

end Sys2Proof.Machine
end

section
/-! PROOFS. The digest formatter and streaming equivalence (43_digest.md rules R160 to R162, R165 and R166). -/

namespace Sys2Proof.Machine

/-! ## Serialize -/

/-- Every Word gives four bytes, so byte 4i + j of a sequence of Words is byte j of its Word i. -/
theorem getElem?_flatMap_bytesBE32 (ws : List Word) (i j : Nat) (hj : j < 4) :
    (ws.flatMap bytesBE32)[4 * i + j]? = ws[i]?.map fun w => wordByte w j := by
  induction ws generalizing i with
  | nil => simp
  | cons w ws ih =>
    rw [List.flatMap_cons]
    cases i with
    | zero =>
      rw [List.getElem?_append_left (by simpa using hj)]
      interval_cases j <;> rfl
    | succ i =>
      have next : 4 * (i + 1) + j - 4 = 4 * i + j := by omega
      rw [List.getElem?_append_right (by simp; omega), length_bytesBE32, next, ih, List.getElem?_cons_succ]

theorem length_serialize (S : Hash) : (serialize S).length = 32 := by
  simp [serialize, List.length_flatMap]

theorem length_hexText (D : List Byte) : (hexText D).length = 2 * D.length := by
  simp [hexText, List.length_flatMap, Nat.mul_comm]

theorem getElem?_serialize (S : Hash) (i : Fin 8) (j : Nat) (hj : j < 4) :
    (serialize S)[4 * i.val + j]? = some (wordByte S[i] j) := by
  rw [serialize, getElem?_flatMap_bytesBE32 _ _ _ hj]
  simp

/-- Settles O51: byte 4i + j is byte j of Word i, and the hex text has two characters a byte. -/
theorem serializeIsBigEndian : Obligations.SerializeIsBigEndian := by
  refine fun S => ⟨length_serialize S, ?_, fun i j hj => ⟨_, getElem?_serialize S i j hj, toNat_wordByte _ j⟩⟩
  rw [length_hexText, length_serialize]

/-! ## The pending job across engine steps -/

/-- The clause of the invariant that the fold of a job rests on: its head block is in progress (R141, R143). -/
def State.HeadInBlock (s : State) : Prop := ∀ B rest, s.Q = B :: rest → s.InBlock B

/-- DV for a job that FINAL started (R30, R149): SETDV while the job runs, and DV = 1 once it is done. -/
def State.DvDue (s : State) : Prop := (s.Q = [] → s.dv = true) ∧ (s.Q ≠ [] → s.setdv = true)

theorem headInBlock_of_idle {s : State} (h : s.Q = []) : s.HeadInBlock := fun B rest hq => by
  rw [h] at hq
  cases hq

theorem headInBlock_of_cons {s : State} {B : Block} {rest : List Block} (hq : s.Q = B :: rest) (hi : s.InBlock B) :
    s.HeadInBlock := fun C rest' hq' => by
  rw [hq] at hq'
  cases hq'
  exact hi

theorem jobResult_of_idle {s : State} (h : s.Q = []) : s.jobResult = s.H := by
  rw [State.jobResult, h]
  rfl

theorem jobResult_of_cons {s : State} {B : Block} {rest : List Block} (h : s.Q = B :: rest) :
    s.jobResult = foldBlocks (compress s.H B) rest := by
  rw [State.jobResult, h]
  rfl

theorem foldBlocks_append (H : Hash) (bs cs : List Block) : foldBlocks H (bs ++ cs) = foldBlocks (foldBlocks H bs) cs :=
  List.foldl_append

theorem engineStep_headInBlock {s : State} (h : s.HeadInBlock) : s.engineStep.HeadInBlock := by
  rcases engineStep_cases s with ⟨-, e⟩ | ⟨-, ht, e⟩ | ⟨-, B, hq, e⟩ | ⟨-, B, C, rest, hq, e⟩ <;> rw [e]
  · exact h
  · exact fun B rest hq => inBlock_roundStep s B ht (h B rest hq)
  · exact headInBlock_of_idle (by simp [hq])
  · have hq' : s.foldHead.Q = C :: rest := by simp [hq]
    exact headInBlock_of_cons ((State.load_Q _).trans hq') (inBlock_load _ C rest hq')

/-- R154: a round changes neither H nor Q, and the add-back of the head block is one step of the fold. -/
theorem engineStep_jobResult {s : State} (h : s.HeadInBlock) : s.engineStep.jobResult = s.jobResult := by
  rcases engineStep_cases s with ⟨-, e⟩ | ⟨-, ht, e⟩ | ⟨ht, B, hq, e⟩ | ⟨ht, B, C, rest, hq, e⟩ <;> rw [e]
  case inr.inl => rfl
  all_goals
    rw [jobResult_of_cons hq, ← addBack_inBlock s B (h B _ hq) ht]
    simp [State.jobResult, hq, foldBlocks]

theorem engineStep_dvDue {s : State} (h : s.DvDue) : s.engineStep.DvDue := by
  obtain ⟨hdone, hjob⟩ := h
  rcases engineStep_cases s with ⟨-, e⟩ | ⟨-, ht, e⟩ | ⟨-, B, hq, e⟩ | ⟨-, B, C, rest, hq, e⟩ <;> rw [e]
  · exact ⟨hdone, hjob⟩
  · exact ⟨hdone, hjob⟩
  · simp [State.DvDue, hq, hjob]
  · simp [State.DvDue, hq, hjob]

/-! ## Waiting -/

theorem waits_cases {s s' : State} (h : Waits s s') :
    s' = s.engineStep ∨ ∃ w k, s' = { s with response := .data w, freeDraws := k } := by
  cases h with
  | engine => exact .inl rfl
  | read _ i hi he => exact .inr (exec_read i s s' hi he)

/-- Neither an engine step nor a read touches what the host has appended (R58, R150, R151). -/
theorem waits_frame {s s' : State} (h : Waits s s') : s'.phase = s.phase ∧ s'.msglen = s.msglen ∧ s'.buf = s.buf := by
  rcases waits_cases h with rfl | ⟨w, k, rfl⟩
  · obtain ⟨_, _, _, _, _, _, _, e⟩ := engineStep_frame s
    rw [e]
    exact ⟨rfl, rfl, rfl⟩
  · exact ⟨rfl, rfl, rfl⟩

theorem waits_headInBlock {s s' : State} (h : Waits s s') (hi : s.HeadInBlock) : s'.HeadInBlock := by
  rcases waits_cases h with rfl | ⟨w, k, rfl⟩
  · exact engineStep_headInBlock hi
  · exact fun B rest hq => ⟨(hi B rest hq).working, (hi B rest hq).window⟩

theorem waits_jobResult {s s' : State} (h : Waits s s') (hi : s.HeadInBlock) : s'.jobResult = s.jobResult := by
  rcases waits_cases h with rfl | ⟨w, k, rfl⟩
  · exact engineStep_jobResult hi
  · rfl

theorem waits_dvDue {s s' : State} (h : Waits s s') (hd : s.DvDue) : s'.DvDue := by
  rcases waits_cases h with rfl | ⟨w, k, rfl⟩
  · exact engineStep_dvDue hd
  · exact hd

/-! ## Streaming a message (R108) -/

/-- What holds while a message is streamed: the bytes that have left BUF are whole chunks, and the pending job will leave the fold of
their blocks in H. -/
structure Streamed (m : List Byte) (s : State) : Prop where
  phase : s.phase = .absorb
  msglen : s.msglen.toNat = m.length
  bufShort : s.buf.length < 64
  head : s.HeadInBlock
  folded : ∃ p full, m = p ++ s.buf ∧ parse p = .ok full ∧ s.jobResult = foldBlocks initialHash full

/-- An accepted command answers with the state it leaves. -/
theorem eq_of_exec_command {c : Command} {s s1 s' : State} (hq : s.Q = []) (ha : allowed c s.phase = true)
    (hp : perform c s = .ok s1) (h : exec c.instr s = .next s') : s' = s1.acknowledge := by
  rw [exec_command, writeCmd_performed c s s1 hq ha hp] at h
  cases h
  rfl

theorem streamed_init {s s' : State} (hq : s.Q = []) (h : exec .init s = .next s') : Streamed [] s' := by
  obtain rfl := eq_of_exec_command (c := .init) hq rfl rfl h
  exact ⟨rfl, rfl, Nat.zero_lt_succ 63, headInBlock_of_idle hq, [], [], rfl, parse_nil, jobResult_of_idle hq⟩

theorem streamed_wait {m : List Byte} {s s' : State} (hs : Streamed m s) (h : Waits s s') : Streamed m s' := by
  obtain ⟨hphase, hmsglen, hbuf, hhead, hfold⟩ := hs
  obtain ⟨ephase, emsglen, ebuf⟩ := waits_frame h
  refine ⟨ephase.trans hphase, emsglen ▸ hmsglen, ebuf ▸ hbuf, waits_headInBlock h hhead, ?_⟩
  rwa [ebuf, waits_jobResult h hhead]

theorem streamed_dataIn {m : List Byte} {s s' : State} {v : Word} (hs : Streamed m s) (hq : s.Q = [])
    (h : exec (.wrDataIn v) s = .next s') : Streamed m s' := by
  obtain ⟨hphase, hmsglen, hbuf, -, hfold⟩ := hs
  obtain ⟨hne, -⟩ | ⟨-, rfl⟩ := guardedWrite_cases _ s s' h
  · exact absurd hq hne
  · exact ⟨hphase, hmsglen, hbuf, headInBlock_of_idle hq, hfold⟩

/-- Below 2^61 MSGLEN counts the bytes of an APPEND.n without wrapping (R28, R187). -/
theorem msglen_counts_append {m : List Byte} {x : BitVec 61} {n : ByteCount} (w : Word) (hx : x.toNat = m.length)
    (hl : x.toNat + n.toNat < 2 ^ 61) : (x + BitVec.ofNat 61 n.toNat).toNat = (m ++ appendBytes n w).length := by
  rw [BitVec.toNat_add, BitVec.toNat_ofNat, Nat.add_mod_mod, Nat.mod_eq_of_lt hl, hx, List.length_append, length_appendBytes]

/-- The bytes of an APPEND.n that stay in BUF leave the chunks as they are. -/
theorem streamed_appendedShort {m : List Byte} {s : State} {n : ByteCount} (hs : Streamed m s) (hq : s.Q = [])
    (hl : s.msglen.toNat + n.toNat < 2 ^ 61) (hb : s.buf.length + n.toNat < 64) :
    Streamed (m ++ appendBytes n s.dataIn) (appendedShort n s).acknowledge := by
  obtain ⟨hphase, hmsglen, -, -, p, full, rfl, hp, hjob⟩ := hs
  refine ⟨hphase, msglen_counts_append _ hmsglen hl, ?_, headInBlock_of_idle hq, p, full, List.append_assoc .., hp, hjob⟩
  simpa [appendedShort] using hb

/-- The byte of an APPEND.n that fills BUF adds one chunk, whose block is the new job. -/
theorem streamed_appendedFull {m : List Byte} {s : State} {n : ByteCount} (hs : Streamed m s) (hq : s.Q = [])
    (hl : s.msglen.toNat + n.toNat < 2 ^ 61) (hf : 64 ≤ s.buf.length + n.toNat) :
    Streamed (m ++ appendBytes n s.dataIn) (appendedFull n s).acknowledge := by
  obtain ⟨hphase, hmsglen, hbuf, -, p, full, rfl, hp, hjob⟩ := hs
  have hn := ByteCount.toNat_le n
  have chunk : ((s.buf ++ appendBytes n s.dataIn).take 64).length = 64 := by simp; omega
  refine ⟨hphase, msglen_counts_append _ hmsglen hl, ?_, headInBlock_of_cons rfl (inBlock_of_load _ _ rfl rfl rfl),
    p ++ (s.buf ++ appendBytes n s.dataIn).take 64, _, ?_, parse_append _ _ _ _ hp (parse_chunk _ chunk), ?_⟩
  · simp [appendedFull]; omega
  · simp [appendedFull, List.take_append_drop]
  · rw [foldBlocks_append, ← hjob, jobResult_of_idle hq]
    rfl

theorem streamed_append {m : List Byte} {s s' : State} {n : ByteCount} (hs : Streamed m s) (hq : s.Q = [])
    (hn : m.length + n.toNat < 2 ^ 61) (h : exec (appendInstr n) s = .next s') :
    Streamed (m ++ appendBytes n s.dataIn) s' := by
  have ha : allowed (.append n) s.phase = true := by rw [hs.phase]; rfl
  have hl : s.msglen.toNat + n.toNat < 2 ^ 61 := by rwa [hs.msglen]
  rcases Nat.lt_or_ge (s.buf.length + n.toNat) 64 with hb | hf
  · obtain rfl := eq_of_exec_command hq ha (performAppend_short n s hq hl hb) h
    exact streamed_appendedShort hs hq hl hb
  · obtain rfl := eq_of_exec_command hq ha (performAppend_full n s hq hl hs.bufShort hf) h
    exact streamed_appendedFull hs hq hl hf

theorem streamed_of_streams {m : List Byte} {s : State} (h : Streams m s) : Streamed m s := by
  induction h with
  | init s s' hq he => exact streamed_init hq he
  | wait m s s' _ hw ih => exact streamed_wait ih hw
  | dataIn m s s' v _ hq he ih => exact streamed_dataIn ih hq he
  | append m s s' n _ hq hn he ih => exact streamed_append ih hq hn he

/-! ## From FINAL to the digest (R110, R166) -/

theorem padSuffix_congr (k k' total : Nat) (h : k % 64 = k' % 64) : padSuffix k total = padSuffix k' total := by
  have hz : padZeros k = padZeros k' := by unfold padZeros; omega
  rw [padSuffix, padSuffix, hz]

/-- R110: PadTail over what is left after whole chunks completes the padded message. -/
theorem pad_eq_append_padTail (p buf : List Byte) (n : BitVec 61) (hp : p.length % 64 = 0) (hn : n.toNat = (p ++ buf).length) :
    pad (p ++ buf) = .ok (p ++ padTail buf n) := by
  have hlt : ¬2 ^ 61 ≤ (p ++ buf).length := hn ▸ Nat.not_le.mpr n.isLt
  have tail : padSuffix (p ++ buf).length (p ++ buf).length = padSuffix buf.length (p ++ buf).length :=
    padSuffix_congr _ _ _ (by rw [List.length_append]; omega)
  rw [pad, if_neg hlt, tail, padTail, hn, List.append_assoc]

/-- R160 for a message cut after whole chunks: their fold goes on over the blocks of PadTail. -/
theorem digestState_append {p buf : List Byte} {n : BitVec 61} {full last : List Block} (hp : parse p = .ok full)
    (hn : n.toNat = (p ++ buf).length) (hlast : parse (padTail buf n) = .ok last) :
    digestState (p ++ buf) = .ok (foldBlocks (foldBlocks initialHash full) last) := by
  obtain ⟨whole, -⟩ := parse_eq_ok p full hp
  simp only [digestState, pad_eq_append_padTail p buf n whole hn, parse_append _ _ _ _ hp hlast, foldBlocks_append]

/-- What holds from FINAL on: the pending job will leave the digest's state in H, and DV with it. -/
structure Finalizing (m : List Byte) (s : State) : Prop where
  phase : s.phase = .finalized
  head : s.HeadInBlock
  result : digestState m = .ok s.jobResult
  dvDue : s.DvDue

theorem finalizing_final {m : List Byte} {s s' : State} (hs : Streamed m s) (hq : s.Q = []) (h : exec .final s = .next s') :
    Finalizing m s' := by
  obtain ⟨hphase, hmsglen, -, -, p, full, rfl, hp, hjob⟩ := hs
  obtain ⟨B, rest, hlast⟩ := parse_padTail s.buf s.msglen
  obtain rfl := eq_of_exec_command (c := .final) hq (by rw [hphase]; rfl) (performFinal_eq s B rest hlast) h
  refine ⟨rfl, headInBlock_of_cons rfl (inBlock_of_load _ _ rfl rfl rfl), ?_, nofun, fun _ => rfl⟩
  rw [digestState_append hp hmsglen hlast, ← hjob, jobResult_of_idle hq]
  rfl

theorem finalizing_wait {m : List Byte} {s s' : State} (hs : Finalizing m s) (h : Waits s s') : Finalizing m s' := by
  obtain ⟨hphase, hhead, hresult, hdv⟩ := hs
  obtain ⟨ephase, -, -⟩ := waits_frame h
  exact ⟨ephase.trans hphase, waits_headInBlock h hhead, by rw [waits_jobResult h hhead, hresult], waits_dvDue h hdv⟩

theorem finalizing_of_finalizes {m : List Byte} {s : State} (h : Finalizes m s) : Finalizing m s := by
  induction h with
  | final s s' hstream hq he => exact finalizing_final (streamed_of_streams hstream) hq he
  | wait s s' _ hw ih => exact finalizing_wait ih hw

/-- Settles O50: with BUSY = 0 the job's result, which is the digest's state, is in H, and DV is no longer due but set. -/
theorem streamedDigestIsTheDigest : Obligations.StreamedDigestIsTheDigest := by
  intro m s h hq
  obtain ⟨hphase, -, hresult, hdone, -⟩ := finalizing_of_finalizes h
  rw [jobResult_of_idle hq] at hresult
  exact ⟨hdone hq, hphase, by rw [digest, hresult]⟩

end Sys2Proof.Machine
end

section
/-! PROOFS. NOP and INIT, the phase table, the length check of an APPEND, and the writes to H and DATA_IN (44_commands.md rules R182
to R187, R201 and R203). -/

namespace Sys2Proof.Machine

/-! ## What the phase table and the command path answer -/

theorem allowed_append_iff (n : ByteCount) (p : Phase) : allowed (.append n) p = true ↔ p = .absorb := by
  cases p <;> simp [allowed]

theorem allowed_final_iff (p : Phase) : allowed .final p = true ↔ p = .absorb := by
  cases p <;> simp [allowed]

theorem allowed_compress_iff (p : Phase) : allowed .compress p = true ↔ p ≠ .error := by
  cases p <;> simp [allowed]

theorem errorAnswer_sequence (s : State) : errorAnswer .sequence s =
    .next { s with errSeq := true, cause := some (s.cause.getD .sequence), response := .okay } := by
  rw [errorAnswer, raise_sequence]
  rfl

theorem exec_command_performed {c : Command} {s s1 : State} (hq : s.Q = []) (ha : allowed c s.phase = true)
    (hp : perform c s = .ok s1) : exec c.instr s = .next s1.acknowledge := by
  rw [exec_command, writeCmd_performed c s s1 hq ha hp]

theorem exec_command_busy (c : Command) {s : State} (hq : s.Q ≠ []) : exec c.instr s =
    .next { s with errBusy := true, cause := some (s.cause.getD .busyWrite), response := .okay } := by
  rw [exec_command, writeCmd_busy _ s hq, errorAnswer_busyWrite]

theorem exec_init_idle {s : State} (hq : s.Q = []) : exec .init s = .next
    { s with H := initialHash, msglen := 0, buf := [], phase := .absorb, dv := false, errIllegal := false, errBusy := false,
             errSeq := false, errTooLarge := false, cause := none, response := .okay } :=
  exec_command_performed (c := .init) hq rfl rfl

/-- PHASE and MSGLEN change only by a command that is performed (R180). -/
theorem exec_keeps_or_performs {i : Instr} {s s' : State} (h : exec i s = .next s') :
    (s'.phase = s.phase ∧ s'.msglen = s.msglen) ∨
    (∃ c s1, IsCommand i c ∧ allowed c s.phase = true ∧ PerformResult c s s1 ∧ s' = s1.acknowledge) := by
  cases exec_result i s s' h with
  | read w k _ => exact .inl ⟨rfl, rfl⟩
  | ignored _ => exact .inl ⟨rfl, rfl⟩
  | busy _ _ => exact .inl ⟨State.raise_phase .., State.raise_msglen ..⟩
  | writeH j v _ _ => exact .inl ⟨rfl, rfl⟩
  | writeM j v _ _ => exact .inl ⟨rfl, rfl⟩
  | writeDataIn v _ _ => exact .inl ⟨rfl, rfl⟩
  | illegal v e _ _ _ => exact .inl ⟨State.raise_phase .., State.raise_msglen ..⟩
  | refused c _ _ _ => exact .inl ⟨State.raise_phase .., State.raise_msglen ..⟩
  | performed c s1 hi _ ha hp => exact .inr ⟨c, s1, hi, ha, perform_result c s s1 hp, rfl⟩

/-! ## INIT (R184) -/

/-- In ERROR the phase table allows NOP and INIT only, and of the two INIT alone changes PHASE. -/
theorem eq_init_of_performed_leaves_error {c : Command} {s s1 : State} (hphase : s.phase = .error)
    (ha : allowed c s.phase = true) (hp : PerformResult c s s1) (hleft : s1.phase ≠ .error) : c = .init := by
  rw [hphase] at ha
  cases c with
  | init => rfl
  | append n => cases ha
  | final => cases ha
  | compress => cases ha
  | nop =>
    cases hp with
    | nop _ => exact absurd hphase hleft
    | _ => contradiction

/-- Settles O15: the effect of INIT is `exec_init_idle`; a performed command is the only way to leave ERROR, and it is INIT. -/
theorem initStartsANewMessage : Obligations.InitStartsANewMessage := by
  refine ⟨decodeCommand_word .init, fun s hq => exec_init_idle hq, fun s s' hq h => ?_,
    fun s hq => exec_command_busy .init hq, fun i s s' hphase h hleft => ?_⟩
  · rw [exec_init_idle hq] at h
    cases h
    simp [statusWord, State.busy, hq, flagWord, Phase.code, causeCode]
  · obtain ⟨ephase, -⟩ | ⟨c, s1, hi, ha, hp, rfl⟩ := exec_keeps_or_performs h
    · exact absurd (ephase.trans hphase) hleft
    · obtain rfl := eq_init_of_performed_leaves_error hphase ha hp hleft
      exact hi

/-! ## The length check of an APPEND (R187) -/

theorem refuseTooLarge_eq (s : State) : refuseTooLarge s =
    { s with errTooLarge := true, cause := some (s.cause.getD .inputTooLarge), phase := .error } := by
  rw [refuseTooLarge, raise_inputTooLarge]

/-- INIT clears MSGLEN; an APPEND.n that is taken adds n below 2^61, so without wrapping; no other command writes it. -/
theorem msglen_of_performed {c : Command} {s s1 : State} (h : PerformResult c s s1) :
    s1.msglen = 0 ∨ (s.msglen.toNat ≤ s1.msglen.toNat ∧ s1.msglen.toNat ≤ s.msglen.toNat + 4) := by
  cases h with
  | nop _ => exact .inr ⟨Nat.le_refl _, Nat.le_add_right _ _⟩
  | init _ => exact .inl rfl
  | tooLarge n _ _ => simp [refuseTooLarge_eq]
  | append n _ _ _ _ _ _ _ hl =>
    have counted : (s.msglen + BitVec.ofNat 61 n.toNat).toNat = s.msglen.toNat + n.toNat := by
      rw [BitVec.toNat_add, BitVec.toNat_ofNat, Nat.add_mod_mod, Nat.mod_eq_of_lt hl]
    have hn := ByteCount.toNat_le n
    exact .inr (by rw [counted]; omega)
  | final _ _ _ _ => exact .inr ⟨Nat.le_refl _, Nat.le_add_right _ _⟩
  | compress _ => exact .inr ⟨Nat.le_refl _, Nat.le_add_right _ _⟩

/-- Settles O19: the refusal is allowed by the phase table and performed as one; MSGLEN moves only as `msglen_of_performed` says. -/
theorem tooLargeAppendIsRefusedWhole : Obligations.TooLargeAppendIsRefusedWhole := by
  refine ⟨fun n s hq hphase hl => ?_, fun i s s' h => ?_⟩
  · have ha : allowed (.append n) s.phase = true := (allowed_append_iff n _).mpr hphase
    have answer := exec_command_performed hq ha (performAppend_tooLarge n s hl)
    rwa [refuseTooLarge_eq] at answer
  · obtain ⟨-, emsglen⟩ | ⟨c, s1, -, -, hp, rfl⟩ := exec_keeps_or_performs h
    · simp [emsglen]
    · have bound := msglen_of_performed hp
      exact bound

/-! ## The phase table (R182) -/

/-- The table read row by row: which commands are refused in which phase. -/
theorem allowed_eq_false_iff (c : Command) (p : Phase) : allowed c p = false ↔
    ((∃ n, c = .append n) ∧ p ≠ .absorb) ∨ (c = .final ∧ p ≠ .absorb) ∨ (c = .compress ∧ p = .error) := by
  rw [← Bool.not_eq_true]
  cases c with
  | nop => simp [allowed]
  | init => simp [allowed]
  | append n => simp [allowed_append_iff]
  | final => simp [allowed_final_iff]
  | compress => simp [allowed_compress_iff]

/-- No effect of a command raises SEQUENCE: the only error one can raise is INPUT_TOO_LARGE. -/
theorem errSeq_of_performed {c : Command} {s s1 : State} (h : PerformResult c s s1) (hs : s1.errSeq = true) :
    s.errSeq = true := by
  cases h with
  | init _ => cases hs
  | tooLarge n _ _ => rwa [refuseTooLarge_eq] at hs
  | nop _ => exact hs
  | append _ _ _ _ _ _ _ _ _ => exact hs
  | final _ _ _ _ => exact hs
  | compress _ => exact hs

/-- Settles O23: a refused command answers with the SEQUENCE error alone; an allowed one is performed, which raises no SEQUENCE. -/
theorem phaseTableDecidesSequence : Obligations.PhaseTableDecidesSequence := by
  refine ⟨allowed_eq_false_iff, fun c s hq ha => ?_, fun c s s' hq ha h hs => ?_⟩
  · rw [exec_command, writeCmd_refused c s hq ha, errorAnswer_sequence]
  · obtain ⟨s1, hp⟩ := perform_ok c s
    obtain rfl := eq_of_exec_command hq ha hp h
    exact errSeq_of_performed (perform_result c s s1 hp) hs

/-! ## NOP (R183) -/

/-- Settles O14: NOP is allowed in every phase and performing it leaves the state; STATUS does not show the response. -/
theorem nopHasNoEffect : Obligations.NopHasNoEffect :=
  ⟨decodeCommand_word .nop, fun _ hq => ⟨exec_command_performed (c := .nop) hq rfl rfl, rfl⟩,
    fun _ hq => exec_command_busy .nop hq⟩

/-! ## Writes to H and DATA_IN (R201, R203) -/

theorem guardedWrite_busy_eq (f : State → State) {s : State} (hq : s.Q ≠ []) : guardedWrite f s =
    .next { s with errBusy := true, cause := some (s.cause.getD .busyWrite), response := .okay } :=
  (guardedWrite_busy f s hq).trans (errorAnswer_busyWrite s)

/-- Settles O25: WR_H[i] is the guarded write of `State.writeH`, which asks nothing of PHASE. -/
theorem writeHStoresAndClearsDv : Obligations.WriteHStoresAndClearsDv := by
  refine ⟨fun i v s hq => ⟨guardedWrite_idle _ s hq, fun j => ?_⟩, fun i v s hq => guardedWrite_busy_eq _ hq⟩
  simp [Vector.getElem_set, Fin.ext_iff, eq_comm]

/-- Whatever a CMD write does, performed or refused, it keeps DATA_IN. -/
theorem dataIn_of_writeCmd {d : Except CommandReject Command} {s s' : State} (h : writeCmd d s = .next s') :
    s'.dataIn = s.dataIn := by
  obtain ⟨-, rfl⟩ | ⟨-, -, rfl⟩ | ⟨c, -, -, -, rfl⟩ | ⟨c, s1, -, -, -, hp, rfl⟩ := writeCmd_cases d s s' h
  · exact State.raise_dataIn ..
  · exact State.raise_dataIn ..
  · exact State.raise_dataIn ..
  · cases perform_result c s s1 hp with
    | tooLarge n _ _ => exact State.raise_dataIn ..
    | nop _ => rfl
    | init _ => rfl
    | append _ _ _ _ _ _ _ _ _ => rfl
    | final _ _ _ _ => rfl
    | compress _ => rfl

/-- Settles O27: WR_DATA_IN is the guarded write of `State.writeDataIn`, and an APPEND.n is a CMD write. -/
theorem writeDataInStores : Obligations.WriteDataInStores := by
  refine ⟨fun v s hq => guardedWrite_idle _ s hq, fun v s hq => guardedWrite_busy_eq _ hq, fun n s s' h => ?_⟩
  rw [exec_appendInstr] at h
  exact dataIn_of_writeCmd h

end Sys2Proof.Machine
end

section
/-! PROOFS. Writes while a job is pending (60_exceptions.md rule R228). -/

namespace Sys2Proof.Machine

/-- The busy check of a CMD write comes before its word is looked at: legal and illegal words answer alike (R180). -/
theorem exec_wrCmd_busy (v : Word) {s : State} (hq : s.Q ≠ []) : exec (.wrCmd v) s =
    .next { s with errBusy := true, cause := some (s.cause.getD .busyWrite), response := .okay } := by
  rw [exec_wrCmd, writeCmd_busy _ s hq, errorAnswer_busyWrite]

/-- Settles O24: a writable register is CMD, whose write checks BUSY first, or one behind `guardedWrite`; the write of a read-only
register does not ask for BUSY. -/
theorem writesWhileBusyAreIgnored : Obligations.WritesWhileBusyAreIgnored := by
  refine ⟨fun i s hq hwritable => ?_, fun i s _ hreadOnly => ?_⟩
  · obtain ⟨c, rfl⟩ | ⟨v, rfl⟩ | ⟨v, rfl⟩ | ⟨j, v, rfl⟩ | ⟨j, v, rfl⟩ := hwritable
    · exact exec_command_busy c hq
    · exact exec_wrCmd_busy v hq
    · exact guardedWrite_busy_eq (State.writeDataIn v) hq
    · exact guardedWrite_busy_eq (State.writeH j v) hq
    · exact guardedWrite_busy_eq (State.writeM j v) hq
  · rw [← ignoredWrite_eq]
    obtain ⟨v, rfl⟩ | ⟨v, rfl⟩ | ⟨v, rfl⟩ | ⟨j, v, rfl⟩ | ⟨k, v, rfl⟩ := hreadOnly
    · exact exec_writeInstr_of_readOnly v .status s rfl
    · exact exec_writeInstr_of_readOnly v .msglenLo s rfl
    · exact exec_writeInstr_of_readOnly v .msglenHi s rfl
    · exact exec_writeInstr_of_readOnly v (.digest j) s rfl
    · exact exec_writeInstr_of_readOnly v (.hex k) s rfl

end Sys2Proof.Machine
end

section
/-! PROOFS. Reset, the abort of a job, and the commands that start one (70_reset_and_hazards.md rules R250, R251 and R257). -/

namespace Sys2Proof.Machine

/-! ## The reset event (R250) -/

theorem step_of_reset {s : State} {rest : List Event} (hp : s.pending = .reset :: rest) :
    step s = .next (resetEvent (s.takeEvent rest)) := by
  rw [step, runNextEvent, hp]
  rfl

theorem reset_M (i : Fin 16) : State.reset.M[i] = 0 := Vector.getElem_replicate i.isLt

theorem statusWord_reset : statusWord State.reset = 0 := by decide

/-- A reset event keeps only what STATUS does not show. -/
theorem statusWord_resetEvent (s : State) : statusWord (resetEvent s) = 0 := statusWord_reset

/-- Settles O8: after a reset event the engine's elements are those of `State.reset`; INIT writes each of them but Q and SETDV, which are
at their reset values already, and M and DATA_IN. -/
theorem resetSetsEveryElement : Obligations.ResetSetsEveryElement := by
  refine ⟨fun s rest hp => ⟨_, step_of_reset hp, ?event⟩, rfl, reset_M, rfl, rfl, rfl, rfl, rfl, rfl, rfl, rfl, rfl, rfl, rfl, rfl,
    statusWord_reset, fun s s' hq hsetdv h => ?init⟩
  case event =>
    exact ⟨rfl, reset_M, rfl, rfl, rfl, rfl, rfl, rfl, rfl, rfl, rfl, rfl, rfl, rfl, statusWord_resetEvent _⟩
  case init =>
    rw [exec_init_idle hq] at h
    cases h
    exact ⟨rfl, rfl, rfl, rfl, hq, hsetdv, rfl, rfl, rfl, rfl, rfl, rfl, rfl, rfl⟩

/-! ## What can change Q during a job (R251) -/

/-- While BUSY = 1 no operation touches Q: it reads, is ignored or is refused with BUSY_WRITE (R228). -/
theorem exec_busy_Q {i : Instr} {s s' : State} (hq : s.Q ≠ []) (h : exec i s = .next s') : s'.Q = s.Q := by
  cases exec_result i s s' h with
  | read w k _ => rfl
  | ignored _ => rfl
  | busy _ _ => exact State.raise_Q ..
  | writeH j v _ idle => exact absurd idle hq
  | writeM j v _ idle => exact absurd idle hq
  | writeDataIn v _ idle => exact absurd idle hq
  | illegal v e _ _ idle => exact absurd idle hq
  | refused c _ idle _ => exact absurd idle hq
  | performed c s1 _ idle _ _ => exact absurd idle hq

/-- The one engine step that changes Q is the add-back step (R150 to R152). -/
theorem addBack_of_engineStep_changes_Q {s : State} (hQ : s.engineStep.Q ≠ s.Q) :
    s.t.val = 64 ∧ s.engineStep.Q = s.Q.tail ∧ s.engineStep.H = addBack s.H s.working := by
  have hq : s.Q ≠ [] := fun hq => hQ (by rw [engineStep_idle s hq])
  have ht : ¬ s.t.val < Config.rounds := fun ht => hQ (by rw [engineStep_round s hq ht, State.roundStep_Q])
  have h64 : s.t.val = 64 := Nat.le_antisymm (Nat.le_of_lt_succ s.t.isLt) (Nat.le_of_not_lt ht)
  rw [engineStep_addBack s hq h64]
  exact ⟨h64, addBackStep_Q s, addBackStep_H s⟩

/-- Settles O9: by what a step can do, a step that changes Q is a reset or an engine step, and that engine step is the add-back. -/
theorem onlyResetAbortsAJob : Obligations.OnlyResetAbortsAJob := by
  refine ⟨fun s rest hp _ => ⟨_, step_of_reset hp, rfl, rfl, statusWord_resetEvent _⟩, fun s s' h hnoReset hq hQ => ?_⟩
  obtain ⟨-, rfl⟩ | ⟨rest, -, rfl⟩ | ⟨rest, hreset, -⟩ | ⟨a, rest, r, -, -, rfl⟩ | ⟨a, rest, i, -, -, hexec⟩ :=
    step_cases s s' h
  · exact addBack_of_engineStep_changes_Q hQ
  · exact addBack_of_engineStep_changes_Q (s := s.takeEvent rest) hQ
  · exact absurd hreset (hnoReset rest)
  · exact absurd rfl hQ
  · exact absurd (exec_busy_Q (s := s.takeEvent rest) hq hexec) hQ

/-! ## The commands that start a job (R257) -/

theorem final_starts_job {s s' : State} (hq : s.Q = []) (hphase : s.phase = .absorb) (h : exec .final s = .next s') : s'.Q ≠ [] := by
  obtain ⟨B, rest, hB⟩ := parse_padTail s.buf s.msglen
  obtain rfl := eq_of_exec_command (c := .final) hq ((allowed_final_iff _).mpr hphase) (performFinal_eq s B rest hB) h
  exact List.cons_ne_nil B rest

theorem compress_starts_job {s s' : State} (hq : s.Q = []) (hphase : s.phase ≠ .error) (h : exec .compress s = .next s') :
    s'.Q ≠ [] := by
  obtain rfl := eq_of_exec_command (c := .compress) hq ((allowed_compress_iff _).mpr hphase) (performCompress_eq s) h
  exact List.cons_ne_nil s.M []

/-- A job starts with the byte that fills BUF (R107, R188). -/
theorem append_starts_job_iff {n : ByteCount} {s s' : State} (hq : s.Q = []) (hphase : s.phase = .absorb)
    (hl : s.msglen.toNat + n.toNat < 2 ^ 61) (hbuf : s.buf.length < 64) (h : exec (appendInstr n) s = .next s') :
    s'.Q ≠ [] ↔ 64 ≤ s.buf.length + n.toNat := by
  have ha : allowed (.append n) s.phase = true := (allowed_append_iff n _).mpr hphase
  rcases Nat.lt_or_ge (s.buf.length + n.toNat) 64 with hshort | hfull
  · obtain rfl := eq_of_exec_command hq ha (performAppend_short n s hq hl hshort) h
    exact iff_of_false (fun hne => hne hq) (Nat.not_le_of_lt hshort)
  · obtain rfl := eq_of_exec_command hq ha (performAppend_full n s hq hl hbuf hfull) h
    exact iff_of_true (List.cons_ne_nil _ _) hfull

/-- Settles O20: under the invariant BUF holds MSGLEN mod 64 bytes, so an APPEND fills it by that count; NOP and INIT keep Q. -/
theorem whichCommandsStartAJob : Obligations.WhichCommandsStartAJob := by
  refine ⟨fun s s' => final_starts_job, fun s s' => compress_starts_job, fun n s s' hinv hq hphase hl h => ?append,
    fun s s' hq h => ?nop, fun s s' hq h => ?init⟩
  case append =>
    have counted : s.buf.length = s.msglen.toNat % 64 := hinv.bufCounted (by simp [hphase])
    rw [← counted]
    exact append_starts_job_iff hq hphase hl (by omega) h
  case nop =>
    obtain rfl := eq_of_exec_command (c := .nop) hq rfl rfl h
    exact hq
  case init =>
    obtain rfl := eq_of_exec_command (c := .init) hq rfl rfl h
    exact hq

end Sys2Proof.Machine
end

section
/-! PROOFS. Decoding and encoding (10_state.md rule R41; 30_encoding.md rules R72, R77 and R79). -/

namespace Sys2Proof

/-! ## The match and mask pairs of R77 as arithmetic -/

/-- The mask of a register that is no array: the whole offset. -/
theorem offsetMatches_iff (off m : BitVec 12) : offsetMatches off m 0xFFF = true ↔ off.toNat = m.toNat := by
  have whole : off &&& 0xFFF = off := BitVec.and_allOnes
  rw [offsetMatches, whole, beq_iff_eq, BitVec.toNat_inj]

theorem and_maskOfEight (off : BitVec 12) : off &&& 0xFE3 = off.extractLsb' 5 7 ++ 0#3 ++ off.extractLsb' 0 2 := by
  refine BitVec.eq_of_getLsbD_eq fun i hi => ?_
  rw [BitVec.getLsbD_and, BitVec.getLsbD_append, BitVec.getLsbD_append, BitVec.getLsbD_extractLsb', BitVec.getLsbD_extractLsb']
  interval_cases i <;> simp

theorem and_maskOfSixteen (off : BitVec 12) : off &&& 0xFC3 = off.extractLsb' 6 6 ++ 0#4 ++ off.extractLsb' 0 2 := by
  refine BitVec.eq_of_getLsbD_eq fun i hi => ?_
  rw [BitVec.getLsbD_and, BitVec.getLsbD_append, BitVec.getLsbD_append, BitVec.getLsbD_extractLsb', BitVec.getLsbD_extractLsb']
  interval_cases i <;> simp

theorem toNat_append_zeros_append {m k n : Nat} (hi : BitVec m) (lo : BitVec n) :
    (hi ++ 0#k ++ lo).toNat = hi.toNat * 2 ^ (k + n) + lo.toNat := by
  rw [BitVec.toNat_append, BitVec.toNat_append, BitVec.toNat_ofNat, Nat.zero_mod, Nat.or_zero,
    ← Nat.shiftLeft_add_eq_or_of_lt lo.isLt, Nat.shiftLeft_eq, Nat.shiftLeft_eq, Nat.mul_assoc, Nat.pow_add]

/-- The mask of an array of 8 registers leaves out the index, bits 4:2. -/
theorem offsetMatches_eight_iff (off m : BitVec 12) :
    offsetMatches off m 0xFE3 = true ↔ off.toNat / 32 * 32 + off.toNat % 4 = m.toNat := by
  have masked : (off &&& 0xFE3).toNat = off.toNat / 32 % 128 * 32 + off.toNat % 4 := by
    rw [and_maskOfEight, toNat_append_zeros_append, BitVec.extractLsb'_toNat, BitVec.extractLsb'_toNat,
      Nat.shiftRight_eq_div_pow]
    rfl
  have high : off.toNat / 32 % 128 = off.toNat / 32 := Nat.mod_eq_of_lt (by omega)
  rw [offsetMatches, beq_iff_eq, ← BitVec.toNat_inj, masked, high]

/-- The mask of an array of 16 registers leaves out the index, bits 5:2. -/
theorem offsetMatches_sixteen_iff (off m : BitVec 12) :
    offsetMatches off m 0xFC3 = true ↔ off.toNat / 64 * 64 + off.toNat % 4 = m.toNat := by
  have masked : (off &&& 0xFC3).toNat = off.toNat / 64 % 64 * 64 + off.toNat % 4 := by
    rw [and_maskOfSixteen, toNat_append_zeros_append, BitVec.extractLsb'_toNat, BitVec.extractLsb'_toNat,
      Nat.shiftRight_eq_div_pow]
    rfl
  have high : off.toNat / 64 % 64 = off.toNat / 64 := Nat.mod_eq_of_lt (by omega)
  rw [offsetMatches, beq_iff_eq, ← BitVec.toNat_inj, masked, high]

/-! ## The register map (R41) -/

/-- An offset in an array of 8 registers is its first offset and 4 times the index. -/
theorem eq_ofNat_of_eight {off : BitVec 12} {first : Nat} (h : off.toNat / 32 * 32 + off.toNat % 4 = first)
    (haligned : first % 4 = 0) : off = BitVec.ofNat 12 (first + 4 * (off.extractLsb' 2 3).toFin.val) := by
  refine BitVec.eq_of_toNat_eq ?_
  rw [BitVec.val_toFin, BitVec.extractLsb'_toNat, Nat.shiftRight_eq_div_pow, BitVec.toNat_ofNat]
  omega

/-- An offset in an array of 16 registers is its first offset and 4 times the index. -/
theorem eq_ofNat_of_sixteen {off : BitVec 12} {first : Nat} (h : off.toNat / 64 * 64 + off.toNat % 4 = first)
    (haligned : first % 4 = 0) : off = BitVec.ofNat 12 (first + 4 * (off.extractLsb' 2 4).toFin.val) := by
  refine BitVec.eq_of_toNat_eq ?_
  rw [BitVec.val_toFin, BitVec.extractLsb'_toNat, Nat.shiftRight_eq_div_pow, BitVec.toNat_ofNat]
  omega

/-- `decodeReg` with its tests read as arithmetic. -/
theorem decodeReg_eq (off : BitVec 12) : decodeReg off =
    if off.toNat = 0x000 then some .cmd
    else if off.toNat = 0x004 then some .status
    else if off.toNat = 0x008 then some .dataIn
    else if off.toNat = 0x00C then some .msglenLo
    else if off.toNat = 0x010 then some .msglenHi
    else if off.toNat / 32 * 32 + off.toNat % 4 = 0x040 then some (.h (off.extractLsb' 2 3).toFin)
    else if off.toNat / 64 * 64 + off.toNat % 4 = 0x080 then some (.m (off.extractLsb' 2 4).toFin)
    else if off.toNat / 32 * 32 + off.toNat % 4 = 0x100 then some (.digest (off.extractLsb' 2 3).toFin)
    else if off.toNat / 64 * 64 + off.toNat % 4 = 0x140 then some (.hex (off.extractLsb' 2 4).toFin)
    else none := by
  simp only [decodeReg, offsetMatches_iff, offsetMatches_eight_iff, offsetMatches_sixteen_iff, BitVec.reduceToNat]

/-- Only the register's own offset decodes to it: the masks keep bits 1:0, so a misaligned offset decodes to none. -/
theorem eq_offset_of_decodeReg {off : BitVec 12} {r : Reg} (h : decodeReg off = some r) : off = r.offset := by
  rw [decodeReg_eq] at h
  split_ifs at h with cmd status dataIn lo hi hs ms digests hexes
  all_goals cases h
  · exact BitVec.eq_of_toNat_eq cmd
  · exact BitVec.eq_of_toNat_eq status
  · exact BitVec.eq_of_toNat_eq dataIn
  · exact BitVec.eq_of_toNat_eq lo
  · exact BitVec.eq_of_toNat_eq hi
  · exact eq_ofNat_of_eight hs rfl
  · exact eq_ofNat_of_sixteen ms rfl
  · exact eq_ofNat_of_eight digests rfl
  · exact eq_ofNat_of_sixteen hexes rfl

theorem decodeReg_eq_none_iff_of_aligned (off : BitVec 12) (h : off.toNat % 4 = 0) : decodeReg off = none ↔
    (0x014 ≤ off.toNat ∧ off.toNat ≤ 0x03C) ∨ (0x060 ≤ off.toNat ∧ off.toNat ≤ 0x07C) ∨
      (0x0C0 ≤ off.toNat ∧ off.toNat ≤ 0x0FC) ∨ (0x120 ≤ off.toNat ∧ off.toNat ≤ 0x13C) ∨ 0x180 ≤ off.toNat := by
  rw [decodeReg_eq]
  simp only [ite_eq_iff, reduceCtorEq, and_false, false_or, and_true]
  omega

/-- Settles O3: each register decodes at its offset, and the match and mask pairs, read as arithmetic, leave the five ranges out. -/
theorem offsetsDecodeByTheRegisterMap : Obligations.OffsetsDecodeByTheRegisterMap :=
  ⟨(decodeReg_offset .cmd).1, (decodeReg_offset .status).1, (decodeReg_offset .dataIn).1, (decodeReg_offset .msglenLo).1,
    (decodeReg_offset .msglenHi).1, fun i => (decodeReg_offset (.h i)).1, fun i => (decodeReg_offset (.m i)).1,
    fun i => (decodeReg_offset (.digest i)).1, fun k => (decodeReg_offset (.hex k)).1, decodeReg_eq_none_iff_of_aligned⟩

/-! ## The access decode inside the window (R54, R55) -/

theorem extractLsb_eq_zero_iff_aligned (off : BitVec 12) : off.extractLsb' 0 2 = 0 ↔ off.toNat % 4 = 0 := by
  rw [← BitVec.toNat_inj, BitVec.extractLsb'_toNat]
  rfl

/-- The operation of an access to a register. -/
def accessInstr (a : HostAccess) (r : Reg) : Instr :=
  match a.dir with
  | .read => readInstr r
  | .write => writeInstr a.data r

theorem decodeAt_of_reg {off : BitVec 12} {a : HostAccess} {r : Reg} (hoff : off = r.offset) (hw : a.width = 32) :
    decodeAt off a = .ok (accessInstr a r) := by
  obtain ⟨hr, haligned⟩ := decodeReg_offset r
  subst hoff
  rw [decodeAt, if_neg (not_not_intro haligned), if_neg (not_not_intro hw), hr, accessInstr]
  cases a.dir <;> rfl

/-- The three bus checks of R55. -/
theorem decodeAt_eq_error {off : BitVec 12} {a : HostAccess} (h : off.toNat % 4 ≠ 0 ∨ a.width ≠ 32 ∨ decodeReg off = none) :
    ∃ r, decodeAt off a = .error r := by
  unfold decodeAt
  by_cases haligned : off.extractLsb' 0 2 = 0
  · by_cases hw : a.width = 32
    · have hnone : decodeReg off = none := by
        rw [extractLsb_eq_zero_iff_aligned] at haligned
        tauto
      exact ⟨.unmapped, by rw [if_neg (not_not_intro haligned), if_neg (not_not_intro hw), hnone]⟩
    · exact ⟨.width, by rw [if_neg (not_not_intro haligned), if_pos hw]⟩
  · exact ⟨.misaligned, if_pos haligned⟩

/-- An access in the window is an operation exactly when it is 32 bits wide and at a register's offset. -/
theorem decodeAt_eq_ok_iff (off : BitVec 12) (a : HostAccess) (i : Instr) :
    decodeAt off a = .ok i ↔ ∃ r : Reg, off = r.offset ∧ a.width = 32 ∧ i = accessInstr a r := by
  refine ⟨fun h => ?_, fun ⟨r, hoff, hw, hi⟩ => hi ▸ decodeAt_of_reg hoff hw⟩
  by_cases hw : a.width = 32
  · cases hr : decodeReg off with
    | none =>
      obtain ⟨e, he⟩ := decodeAt_eq_error (off := off) (a := a) (.inr (.inr hr))
      rw [he] at h
      cases h
    | some r =>
      have hoff := eq_offset_of_decodeReg hr
      rw [decodeAt_of_reg hoff hw] at h
      exact ⟨r, hoff, hw, (Except.ok.inj h).symm⟩
  · obtain ⟨e, he⟩ := decodeAt_eq_error (off := off) (a := a) (.inr (.inl hw))
    rw [he] at h
    cases h

/-- What decodes is an access at BASE plus a register's offset, 32 bits wide. -/
theorem decode_eq_ok_iff (basePage : Nat) (a : HostAccess) (i : Instr) : decode basePage a = .ok i ↔
    ∃ r : Reg, a.addr = busAddress basePage r.offset ∧ a.width = 32 ∧ i = accessInstr a r := by
  constructor
  · intro h
    unfold decode at h
    split at h
    · cases h
    · rename_i off hoff
      split at h
      · cases h
      · rename_i j hj
        cases h
        obtain ⟨r, rfl, hw, rfl⟩ := (decodeAt_eq_ok_iff off a i).mp hj
        exact ⟨r, windowOffset_eq_some basePage a.addr _ hoff, hw, rfl⟩
  · rintro ⟨r, haddr, hw, rfl⟩
    rw [decode_at basePage a r.offset haddr, decodeAt_of_reg rfl hw]

/-! ## Operations as reads and writes of registers -/

theorem encode_readInstr (basePage : Nat) (r : Reg) : encode basePage (readInstr r) = readAccess basePage r := by
  cases r <;> rfl

theorem encode_command (basePage : Nat) (c : Command) : encode basePage c.instr = writeAccess basePage .cmd c.word := by
  cases c with
  | append n => cases n <;> rfl
  | _ => rfl

/-- For CMD the write may be a command (R79), whose encoding is the write of its word. -/
theorem encode_writeInstr (basePage : Nat) (v : Word) (r : Reg) :
    encode basePage (writeInstr v r) = writeAccess basePage r v := by
  cases r with
  | cmd =>
    obtain ⟨c, rfl, hc⟩ | ⟨e, -, hv⟩ := writeCmdInstr_cases v
    · rw [writeInstr, hc, encode_command]
    · rw [writeInstr, hv]; rfl
  | _ => rfl

theorem wellFormed_readInstr (r : Reg) : (readInstr r).wellFormed = true := by cases r <;> rfl

theorem wellFormed_wrCmd_iff (v : Word) : (Instr.wrCmd v).wellFormed = true ↔ v ∉ legalCommandWords := by
  simp [Instr.wellFormed]

theorem wellFormed_writeInstr (v : Word) (r : Reg) : (writeInstr v r).wellFormed = true := by
  cases r with
  | cmd =>
    obtain ⟨c, rfl, hc⟩ | ⟨e, he, hv⟩ := writeCmdInstr_cases v
    · rw [writeInstr, hc, wellFormed_command]
    · rw [writeInstr, hv, wellFormed_wrCmd_iff, ← decodeCommand_rejects_iff]
      exact ⟨e, he⟩
  | _ => rfl

theorem writeCmdInstr_word (c : Command) : writeCmdInstr c.word = c.instr := by
  rw [writeCmdInstr, decodeCommand_word]

/-- A well-formed operation is the read of a register or the write of one. -/
theorem exists_reg_of_wellFormed (i : Instr) (h : i.wellFormed = true) :
    (∃ r, i = readInstr r) ∨ ∃ v r, i = writeInstr v r := by
  have command (c : Command) : ∃ v r, c.instr = writeInstr v r := ⟨c.word, .cmd, (writeCmdInstr_word c).symm⟩
  cases i with
  | nop => exact .inr (command .nop)
  | init => exact .inr (command .init)
  | append1 => exact .inr (command (.append .one))
  | append2 => exact .inr (command (.append .two))
  | append3 => exact .inr (command (.append .three))
  | append4 => exact .inr (command (.append .four))
  | final => exact .inr (command .final)
  | compress => exact .inr (command .compress)
  | wrCmd v =>
    obtain ⟨e, he⟩ := (decodeCommand_rejects_iff v).mpr ((wellFormed_wrCmd_iff v).mp h)
    exact .inr ⟨v, .cmd, by rw [writeInstr, writeCmdInstr, he]⟩
  | rdCmd => exact .inl ⟨.cmd, rfl⟩
  | rdStatus => exact .inl ⟨.status, rfl⟩
  | rdDataIn => exact .inl ⟨.dataIn, rfl⟩
  | rdMsglenLo => exact .inl ⟨.msglenLo, rfl⟩
  | rdMsglenHi => exact .inl ⟨.msglenHi, rfl⟩
  | rdH j => exact .inl ⟨.h j, rfl⟩
  | rdM j => exact .inl ⟨.m j, rfl⟩
  | rdDigest j => exact .inl ⟨.digest j, rfl⟩
  | rdHex k => exact .inl ⟨.hex k, rfl⟩
  | wrStatus v => exact .inr ⟨v, .status, rfl⟩
  | wrDataIn v => exact .inr ⟨v, .dataIn, rfl⟩
  | wrMsglenLo v => exact .inr ⟨v, .msglenLo, rfl⟩
  | wrMsglenHi v => exact .inr ⟨v, .msglenHi, rfl⟩
  | wrH j v => exact .inr ⟨v, .h j, rfl⟩
  | wrM j v => exact .inr ⟨v, .m j, rfl⟩
  | wrDigest j v => exact .inr ⟨v, .digest j, rfl⟩
  | wrHex k v => exact .inr ⟨v, .hex k, rfl⟩

/-! ## The statements -/

/-- Settles O5: a well-formed operation is encoded as the access to its register, and that access decodes to it. -/
theorem decodeInvertsEncode : Obligations.DecodeInvertsEncode := by
  intro basePage i h
  rw [decode_eq_ok_iff]
  obtain ⟨r, rfl⟩ | ⟨v, r, rfl⟩ := exists_reg_of_wellFormed i h
  · rw [encode_readInstr]
    exact ⟨r, rfl, rfl, rfl⟩
  · rw [encode_writeInstr]
    exact ⟨r, rfl, rfl, rfl⟩

/-- Settles O6: what decodes is an access to a register, whose operation is well formed and is encoded as that access. -/
theorem encodeInvertsDecode : Obligations.EncodeInvertsDecode := by
  rintro basePage ⟨dir, addr, width, data⟩ i h
  obtain ⟨r, haddr, hw, rfl⟩ := (decode_eq_ok_iff basePage _ i).mp h
  dsimp only at haddr hw
  subst haddr hw
  cases dir with
  | read => exact ⟨wellFormed_readInstr r, encode_readInstr basePage r⟩
  | write => exact ⟨wellFormed_writeInstr data r, encode_writeInstr basePage data r⟩

/-- Settles O4: nine closed facts, each evaluated. -/
theorem sampleTableWordsDecode : Obligations.SampleTableWordsDecode := by
  refine ⟨?_, ?_, ?_, ?_, ?_, ?_, ?_, ?_, ?_⟩ <;> decide

/-- Settles O7: the word of a command decodes to it, and both arms are the command path. -/
theorem cmdWriteOfACommandWordIsThatCommand : Obligations.CmdWriteOfACommandWordIsThatCommand := by
  intro c s
  rw [Machine.exec_wrCmd, decodeCommand_word, Machine.exec_command]

end Sys2Proof
end

section
/-! PROOFS. Host accesses and steps: what each answers (20_memory.md rules R51, R54, R55; 60_exceptions.md rule R221;
70_reset_and_hazards.md rule R252). -/

namespace Sys2Proof.Machine

/-! ## Every operation answers a next state (R221) -/

theorem writeCmd_answers (d : Except CommandReject Command) (s : State) : ∃ s', writeCmd d s = .next s' := by
  by_cases hq : s.Q = []
  · cases d with
    | error e => exact ⟨_, writeCmd_illegal e s hq⟩
    | ok c =>
      cases ha : allowed c s.phase with
      | false => exact ⟨_, writeCmd_refused c s hq ha⟩
      | true =>
        obtain ⟨s1, hp⟩ := perform_ok c s
        exact ⟨_, writeCmd_performed c s s1 hq ha hp⟩
  · exact ⟨_, writeCmd_busy d s hq⟩

theorem guardedWrite_answers (f : State → State) (s : State) : ∃ s', guardedWrite f s = .next s' := by
  by_cases hq : s.Q = []
  · exact ⟨_, guardedWrite_idle f s hq⟩
  · exact ⟨_, guardedWrite_busy f s hq⟩

/-- While busy a read of H[i] is a free value, and the draw is counted (R229). -/
theorem exec_rdH_busy (i : Fin 8) {s : State} (hq : s.Q ≠ []) : exec (.rdH i) s = .next
    { s with response := .data (Config.freeHRead s.freeDraws), freeDraws := s.freeDraws + 1 } := by
  have hbusy := State.busy_eq_true.mpr hq
  simp only [exec, execRdH, readReg, hbusy, if_true]
  rfl

/-- With no job pending every read is the same operation on its register (R200). -/
theorem exec_readInstr_idle (r : Reg) {s : State} (hq : s.Q = []) : exec (readInstr r) s = readAnswer r s := by
  cases r with
  | h i =>
    have hbusy := State.busy_eq_false.mpr hq
    simp only [readInstr, exec, execRdH, hbusy, Bool.false_eq_true, if_false]
  | _ => rfl

theorem exec_answers (i : Instr) (s : State) : ∃ s', exec i s = .next s' := by
  cases i with
  | nop => exact writeCmd_answers (.ok .nop) s
  | init => exact writeCmd_answers (.ok .init) s
  | append1 => exact writeCmd_answers (.ok (.append .one)) s
  | append2 => exact writeCmd_answers (.ok (.append .two)) s
  | append3 => exact writeCmd_answers (.ok (.append .three)) s
  | append4 => exact writeCmd_answers (.ok (.append .four)) s
  | final => exact writeCmd_answers (.ok .final) s
  | compress => exact writeCmd_answers (.ok .compress) s
  | wrCmd v => exact writeCmd_answers (decodeCommand v) s
  | wrDataIn v => exact guardedWrite_answers (State.writeDataIn v) s
  | wrH j v => exact guardedWrite_answers (State.writeH j v) s
  | wrM j v => exact guardedWrite_answers (State.writeM j v) s
  | rdH j =>
    by_cases hq : s.Q = []
    · exact ⟨_, exec_readInstr_idle (.h j) hq⟩
    · exact ⟨_, exec_rdH_busy j hq⟩
  | _ => exact ⟨_, rfl⟩

/-- Settles O13: the command path and the guarded writes answer in each of their cases, and every other operation has only one. -/
theorem everyOperationAnswersANextState : Obligations.EveryOperationAnswersANextState := exec_answers

/-! ## The step of an access -/

theorem step_of_access {s : State} {a : HostAccess} {rest : List Event} (hp : s.pending = .access a :: rest) :
    step s = afterAccess (s.takeEvent rest) (hostAccess a (s.takeEvent rest)) := by
  rw [step, runNextEvent, hp]
  rfl

theorem step_of_operation {s : State} {a : HostAccess} {rest : List Event} {i : Instr} (hp : s.pending = .access a :: rest)
    (hd : decode s.basePage a = .ok i) : step s = exec i (s.takeEvent rest) := by
  obtain ⟨s', he⟩ := exec_answers i (s.takeEvent rest)
  have hhost : hostAccess a (s.takeEvent rest) = .next s' := by
    rw [hostAccess, State.takeEvent_basePage, hd]
    exact he
  rw [step_of_access hp, hhost, he]
  rfl

theorem step_of_engine {s : State} {rest : List Event} (hp : s.pending = .engine :: rest) :
    step s = .next (s.takeEvent rest).engineStep := by
  rw [step, runNextEvent, hp]
  rfl

theorem step_of_accessDuringReset {s : State} {a : HostAccess} {rest : List Event}
    (hp : s.pending = .accessDuringReset a :: rest) : step s = .refused .accessDuringReset := by
  rw [step, runNextEvent, hp]
  rfl

/-- Settles O10: each kind of event has its own equation, and with no job pending an engine step leaves the state. -/
theorem stepRunsTheNextEvent : Obligations.StepRunsTheNextEvent :=
  ⟨fun _ _ _ _ hp hd => step_of_operation hp hd, fun _ _ hp => step_of_engine hp, step_no_event, engineStep_idle⟩

/-! ## Accesses that are no operation of this engine (R51, R55) -/

theorem windowOffset_of_foreign (basePage addr : Nat) (h : addr < 4096 * basePage ∨ 4096 * basePage + 4096 ≤ addr) :
    windowOffset basePage addr = none := by
  refine if_neg ?_
  simp only [baseAddress, Config.windowBytes]
  omega

/-- Settles O11: no event of this kind has a next state, and an address outside the window has no offset. -/
theorem foreignAndResetAccessesAreRefused : Obligations.ForeignAndResetAccessesAreRefused := by
  refine ⟨fun s a rest hp => step_of_accessDuringReset hp, fun s a rest hp hforeign => ?_⟩
  rw [step_of_access hp, hostAccess, decode, State.takeEvent_basePage, windowOffset_of_foreign _ _ hforeign]
  rfl

/-- The bus checks decide whether an access in the window faults: what passes them is an operation, and no operation faults. -/
theorem hostAccess_busError_iff {s : State} {a : HostAccess} {off : BitVec 12} (haddr : a.addr = busAddress s.basePage off) :
    (∃ r, hostAccess a s = .fault (.busError r)) ↔ (off.toNat % 4 ≠ 0 ∨ a.width ≠ 32 ∨ decodeReg off = none) := by
  have hdecode := decode_at s.basePage a off haddr
  constructor
  · intro ⟨r, hfault⟩
    by_contra hchecks
    obtain ⟨haligned, hw, hreg⟩ := not_or.mp hchecks |>.imp_right not_or.mp
    obtain ⟨g, hg⟩ := Option.ne_none_iff_exists'.mp hreg
    rw [decodeAt_of_reg (eq_offset_of_decodeReg hg) (not_not.mp hw)] at hdecode
    rw [hostAccess, hdecode] at hfault
    exact exec_ne_busError _ s r hfault
  · intro hchecks
    obtain ⟨r, hr⟩ := decodeAt_eq_error hchecks
    rw [hr] at hdecode
    exact ⟨r, by rw [hostAccess, hdecode]⟩

/-- Settles O12: the fault is that of the bus checks, and the step answers it with the error response alone. -/
theorem busErrorChangesNoEngineState : Obligations.BusErrorChangesNoEngineState := by
  refine ⟨fun s a off haddr => hostAccess_busError_iff haddr, fun s a off rest hp haddr hchecks => ?_⟩
  obtain ⟨r, hfault⟩ := (hostAccess_busError_iff (s := s.takeEvent rest) haddr).mpr hchecks
  rw [step_of_access hp, hfault]
  rfl

end Sys2Proof.Machine
end

section
/-! PROOFS. What the registers read, and the writes to M (10_state.md rules R36 to R38; 43_digest.md rules R162, R163, R170 and R172;
44_commands.md rules R200 and R202; 60_exceptions.md rule R229). -/

namespace Sys2Proof.Machine

/-! ## STATUS (R36) -/

theorem getLsbD_flagWord (b : Bool) (i : Nat) : (flagWord b).getLsbD i = (decide (i = 0) && b) := by
  cases b <;> simp [flagWord]

/-- The code of PHASE is two bits wide (R27). -/
theorem getLsbD_phaseCode_of_ge (p : Phase) (i : Nat) (h : 2 ≤ i) : p.code.getLsbD i = false := by
  have hlt : p.code.toNat < 2 ^ 2 := by cases p <;> decide
  exact Nat.testBit_lt_two_pow (hlt.trans_le (Nat.pow_le_pow_right Nat.two_pos h))

theorem statusWord_flagBits (s : State) :
    (statusWord s).getLsbD 0 = s.busy ∧ (statusWord s).getLsbD 1 = s.dv ∧ (statusWord s).getLsbD 4 = s.errIllegal ∧
      (statusWord s).getLsbD 5 = s.errBusy ∧ (statusWord s).getLsbD 6 = s.errSeq ∧ (statusWord s).getLsbD 7 = s.errTooLarge := by
  simp [statusWord, getLsbD_flagWord, getLsbD_phaseCode_of_ge, -BitVec.getLsbD_eq_getElem]

/-- Bits 3:2 are the low two of the code of PHASE: the flags are one bit each, and CAUSE begins at bit 8. -/
theorem statusWord_phaseBits (s : State) : (statusWord s).extractLsb' 2 2 = s.phase.code.extractLsb' 0 2 := by
  refine BitVec.eq_of_getLsbD_eq fun i hi => ?_
  interval_cases i <;> simp [statusWord, getLsbD_flagWord, -BitVec.getLsbD_eq_getElem]

/-- Bits 31:8 are the code of CAUSE: the seven fields below it end before bit 8. -/
theorem statusWord_causeBits (s : State) : statusWord s >>> 8 = causeCode s.cause := by
  have busy (b : Bool) : flagWord b >>> 8 = 0 := by cases b <;> rfl
  have flag (b : Bool) (k : Nat) (hk : k < 8) : flagWord b <<< k >>> 8 = 0 := by cases b <;> interval_cases k <;> rfl
  have phase (p : Phase) : p.code <<< 2 >>> 8 = 0 := by cases p <;> rfl
  have cause (c : Option EngineError) : causeCode c <<< 8 >>> 8 = causeCode c := by
    cases c with
    | none => rfl
    | some e => cases e <;> rfl
  simp [statusWord, BitVec.ushiftRight_or_distrib, busy, flag, phase, cause]

/-- Settles O29: the read answers `statusWord`, whose fields do not overlap. -/
theorem statusReadsTheFlags : Obligations.StatusReadsTheFlags := by
  intro s
  obtain ⟨busy, dv, illegal, busyWrite, seq, tooLarge⟩ := statusWord_flagBits s
  refine ⟨statusWord s, rfl, ?_, dv, ?_, illegal, busyWrite, seq, tooLarge, ?_⟩
  · rw [busy, State.busy_eq_true]
  · have field : ((statusWord s).extractLsb' 2 2).toNat = (statusWord s).toNat / 4 % 4 := by
      rw [BitVec.extractLsb'_toNat, Nat.shiftRight_eq_div_pow]
    rw [← field, statusWord_phaseBits]
    cases s.phase <;> rfl
  · have field : (statusWord s >>> 8).toNat = (statusWord s).toNat / 256 := by
      rw [BitVec.toNat_ushiftRight, Nat.shiftRight_eq_div_pow]
    rw [← field, statusWord_causeBits]
    cases s.cause with
    | none => rfl
    | some e => cases e <;> rfl

/-! ## MSGLEN (R38) -/

theorem toNat_msglenLo (n : BitVec 61) : (msglenLo n).toNat = n.toNat % 2 ^ 32 := by
  rw [msglenLo, BitVec.extractLsb'_toNat, Nat.shiftRight_zero]

theorem toNat_msglenHi (n : BitVec 61) : (msglenHi n).toNat = n.toNat / 2 ^ 32 := by
  rw [msglenHi, BitVec.toNat_setWidth, BitVec.extractLsb'_toNat, Nat.shiftRight_eq_div_pow]
  omega

/-- Settles O30: the two Words are the remainder and the quotient of the byte count by 2^32. -/
theorem msglenReadsAsTwoWords : Obligations.MsglenReadsAsTwoWords := by
  refine ⟨fun s => ⟨msglenLo s.msglen, msglenHi s.msglen, rfl, rfl, ?_, ?_⟩, rfl, rfl⟩
  · rw [toNat_msglenHi]
    omega
  · rw [toNat_msglenHi, toNat_msglenLo]
    omega

/-! ## CMD, DATA_IN, M and H (R200, R202, R229) -/

/-- Settles O31: only the read of H asks whether the engine is busy. -/
theorem plainRegistersReadAsStored : Obligations.PlainRegistersReadAsStored := by
  refine ⟨fun s => rfl, fun s => rfl, fun i s => rfl, fun i s hq => ?_⟩
  have stored : readReg s (.h i) = s.H[i] := by simp [readReg, State.busy_eq_false.mpr hq]
  rw [← stored]
  exact exec_readInstr_idle (.h i) hq

/-- Settles O32: the busy arm of the read. -/
theorem readHWhileBusyIsAFreeValue : Obligations.ReadHWhileBusyIsAFreeValue := fun i _ hq => exec_rdH_busy i hq

theorem getElem_set_block (M : Block) (i j : Fin 16) (v : Word) : (M.set i v)[j] = if j = i then v else M[j] := by
  simp [Vector.getElem_set, Fin.ext_iff, eq_comm]

/-- Settles O26: WR_M[i] is the guarded write of `State.writeM`. -/
theorem writeMStores : Obligations.WriteMStores :=
  ⟨fun i v s hq => ⟨guardedWrite_idle _ s hq, fun j => getElem_set_block s.M i j v⟩, fun _ _ _ hq => guardedWrite_busy_eq _ hq⟩

/-! ## Reads have no side effect (R58) -/

theorem exists_reg_of_isRead (i : Instr) (h : isRead i = true) : ∃ r, i = readInstr r := by
  cases i with
  | rdCmd => exact ⟨.cmd, rfl⟩
  | rdStatus => exact ⟨.status, rfl⟩
  | rdDataIn => exact ⟨.dataIn, rfl⟩
  | rdMsglenLo => exact ⟨.msglenLo, rfl⟩
  | rdMsglenHi => exact ⟨.msglenHi, rfl⟩
  | rdH j => exact ⟨.h j, rfl⟩
  | rdM j => exact ⟨.m j, rfl⟩
  | rdDigest j => exact ⟨.digest j, rfl⟩
  | rdHex k => exact ⟨.hex k, rfl⟩
  | _ => cases h

/-- No register shows the response. -/
theorem readReg_respond (s : State) (x : BusResponse) (r : Reg) : readReg (s.respond x) r = readReg s r := by
  cases r <;> rfl

/-- Settles O35: a read leaves what every register reads, so with no job pending reading again answers the same Word. -/
theorem readsHaveNoSideEffect : Obligations.ReadsHaveNoSideEffect := by
  refine ⟨fun i s s' hi h => ?_, fun i s s' hi hq h => ?_⟩
  · obtain ⟨w, k, rfl⟩ := exec_read i s s' hi h
    rfl
  · obtain ⟨r, rfl⟩ := exists_reg_of_isRead i hi
    rw [exec_readInstr_idle r hq] at h
    cases h
    have again : (s.respond (.data (readReg s r))).Q = [] := hq
    rw [exec_readInstr_idle r again, readAnswer, readReg_respond]
    rfl

/-! ## DIGEST and HEX (R170, R172) -/

theorem readDigest_invalid (i : Fin 8) {s : State} (hdv : s.dv = false) : readDigest s i = 0 := if_neg (by simp [hdv])

theorem readHex_invalid (k : Fin 16) {s : State} (hdv : s.dv = false) : readHex s k = 0 := if_neg (by simp [hdv])

theorem exec_rdDigest (i : Fin 8) (s : State) : exec (.rdDigest i) s = .next { s with response := .data (readDigest s i) } := rfl

theorem exec_rdHex (k : Fin 16) (s : State) : exec (.rdHex k) s = .next { s with response := .data (readHex s k) } := rfl

/-- Settles O33: the two values of DV. -/
theorem digestReadsHWhenValid : Obligations.DigestReadsHWhenValid := by
  refine fun i s => ⟨fun hdv => ?_, fun hdv => ?_⟩
  · rw [exec_rdDigest, readDigest, if_pos hdv]
  · rw [exec_rdDigest, readDigest_invalid i hdv]

/-- Character 2i + c of a hex text is the digit of nibble c of byte i, the high one first (R162). -/
theorem getElem?_hexText (D : List Byte) (i c : Nat) (hc : c < 2) :
    (hexText D)[2 * i + c]? = D[i]?.map fun b => hexdigit (b.extractLsb' (4 - 4 * c) 4) := by
  induction D generalizing i with
  | nil => simp [hexText]
  | cons b D ih =>
    cases i with
    | zero => interval_cases c <;> rfl
    | succ i =>
      have next : 2 * (i + 1) + c = 2 * i + c + 2 := by omega
      rw [next, List.getElem?_cons_succ, ← ih]
      rfl

/-- A field of a field is a field. -/
theorem extractLsb_extractLsb {w : Nat} (x : BitVec w) (start' len' start len : Nat) (h : start + len ≤ len') :
    (x.extractLsb' start' len').extractLsb' start len = x.extractLsb' (start' + start) len := by
  refine BitVec.eq_of_getLsbD_eq fun i hi => ?_
  have inside : start + i < len' := by omega
  simp [hi, inside, Nat.add_assoc]

/-- Character 8i + m of the hex text of a hash is the digit of nibble m of its Word i. -/
theorem getElem?_hexText_serialize (S : Hash) (i : Fin 8) (m : Nat) (hm : m < 8) :
    (hexText (serialize S))[8 * i.val + m]? = some (hexdigit (S[i].extractLsb' (28 - 4 * m) 4)) := by
  have place : 8 * i.val + m = 2 * (4 * i.val + m / 2) + m % 2 := by omega
  have low : 24 - 8 * (m / 2) + (4 - 4 * (m % 2)) = 28 - 4 * m := by omega
  rw [place, getElem?_hexText _ _ _ (Nat.mod_lt m Nat.two_pos), getElem?_serialize S i _ (by omega), Option.map_some, wordByte,
    extractLsb_extractLsb _ _ _ _ _ (by omega), low]

/-- HEX[k] shows the half of Word k div 2 that k mod 2 names, the high half first (R172). -/
theorem hexHalf_eq (S : Hash) (k : Fin 16) : hexHalf S k = (S[k.val / 2]).extractLsb' (16 - 16 * (k.val % 2)) 16 := by
  unfold hexHalf
  obtain hk | hk := Nat.mod_two_eq_zero_or_one k.val <;> simp [hk]

theorem bytesBE32_be32 (a b c d : Byte) : bytesBE32 (be32 a b c d) = [a, b, c, d] := by
  have ha := a.isLt
  have hb := b.isLt
  have hc := c.isLt
  have hd := d.isLt
  simp only [bytesBE32, List.cons.injEq, and_true, ← BitVec.toNat_inj, toNat_wordByte, toNat_be32]
  omega

theorem wordByte_hexWord (hw : BitVec 16) (j : Nat) (hj : j < 4) :
    wordByte (hexWord hw) j = hexdigit (hw.extractLsb' (12 - 4 * j) 4) := by
  have bytes := bytesBE32_be32 (hexdigit (hw.extractLsb' 12 4)) (hexdigit (hw.extractLsb' 8 4)) (hexdigit (hw.extractLsb' 4 4))
    (hexdigit (hw.extractLsb' 0 4))
  simp only [bytesBE32, List.cons.injEq, and_true] at bytes
  obtain ⟨b0, b1, b2, b3⟩ := bytes
  interval_cases j
  · exact b0
  · exact b1
  · exact b2
  · exact b3

/-- Byte j of the Word that HEX[k] reads is character 4k + j of the hex text (R172). -/
theorem getElem?_hexText_eq_hexWord (S : Hash) (k : Fin 16) (j : Nat) (hj : j < 4) :
    (hexText (serialize S))[4 * k.val + j]? = some ((hexWord (hexHalf S k)).extractLsb' (24 - 8 * j) 8) := by
  have place : 4 * k.val + j = 8 * (k.val / 2) + (4 * (k.val % 2) + j) := by omega
  have low : 16 - 16 * (k.val % 2) + (12 - 4 * j) = 28 - 4 * (4 * (k.val % 2) + j) := by omega
  have byte := wordByte_hexWord (hexHalf S k) j hj
  rw [wordByte, hexHalf_eq, extractLsb_extractLsb _ _ _ _ _ (by omega), low] at byte
  rw [place, getElem?_hexText_serialize S ⟨k.val / 2, by omega⟩ _ (by omega), hexHalf_eq, byte]
  rfl

theorem toNat_hexdigit_decimal (v : BitVec 4) (h : v.toNat < 10) : (hexdigit v).toNat = 0x30 + v.toNat := by
  rw [hexdigit, if_pos h, BitVec.toNat_add, BitVec.toNat_setWidth]
  simp
  omega

theorem toNat_hexdigit_letter (v : BitVec 4) (h : 10 ≤ v.toNat) : (hexdigit v).toNat = 0x61 + (v.toNat - 10) := by
  rw [hexdigit, if_neg (Nat.not_lt.mpr h), BitVec.toNat_add, BitVec.toNat_sub, BitVec.toNat_setWidth]
  simp
  omega

/-- Settles O34: the Word read is four digits of a halfword of H, and so are those four characters of the text. -/
theorem hexReadsTheDigestText : Obligations.HexReadsTheDigestText :=
  ⟨fun k s => ⟨fun hdv => by rw [exec_rdHex, readHex_invalid k hdv],
      fun hdv => ⟨_, by rw [exec_rdHex, readHex, if_pos hdv], getElem?_hexText_eq_hexWord s.H k⟩⟩,
    getElem?_hexText_serialize, toNat_hexdigit_decimal, toNat_hexdigit_letter⟩

end Sys2Proof.Machine
end

section
/-! PROOFS. The commands that absorb bytes or start a job (40_padding.md rules R107 and R110; 44_commands.md rules R188 to R190). -/

namespace Sys2Proof.Machine

theorem exec_append_performed {n : ByteCount} {s s1 : State} (hq : s.Q = []) (hphase : s.phase = .absorb)
    (hp : performAppend n s = .ok s1) : exec (appendInstr n) s = .next s1.acknowledge :=
  exec_command_performed (c := .append n) hq ((allowed_append_iff n _).mpr hphase) hp

/-- Settles O17: no byte of the APPEND.n fills BUF, so each only joins it. -/
theorem appendThatDoesNotFillBuf : Obligations.AppendThatDoesNotFillBuf :=
  fun n s hq hphase hl hb => exec_append_performed hq hphase (performAppend_short n s hq hl hb)

/-- Settles O18: one of the bytes fills BUF, whose block becomes the job. -/
theorem appendThatFillsBufStartsAJob : Obligations.AppendThatFillsBufStartsAJob :=
  fun n s hq hphase hl hb hf => exec_append_performed hq hphase (performAppend_full n s hq hl hb hf)

/-- Settles O22: COMPRESS is allowed in every phase but ERROR, and its job is the copy of M. -/
theorem compressStartsARawJob : Obligations.CompressStartsARawJob :=
  fun s hq hphase => exec_command_performed (c := .compress) hq ((allowed_compress_iff _).mpr hphase) (performCompress_eq s)

/-- R110 with the zeros counted for a BUF that is not full. -/
theorem padTail_eq_of_le (buf : List Byte) (n : BitVec 61) (h : buf.length ≤ 63) : padTail buf n =
    buf ++ [0x80] ++ List.replicate ((55 + 64 - buf.length) % 64) 0 ++ be64 (8 * n.toNat) := by
  have zeros : padZeros buf.length = (55 + 64 - buf.length) % 64 := by
    unfold padZeros
    omega
  simp [padTail, padSuffix, zeros]

/-- Settles O21: FINAL queues the blocks of PadTail, which are one or two by the length of BUF. -/
theorem finalPadsAndStartsTheLastJob : Obligations.FinalPadsAndStartsTheLastJob := by
  intro s hq hphase hb
  obtain ⟨B, rest, hparse⟩ := parse_padTail s.buf s.msglen
  have blocks := length_parse_padTail s.buf s.msglen _ hb hparse
  refine ⟨B, rest, by rw [← padTail_eq_of_le s.buf s.msglen hb, hparse], ?_,
    exec_command_performed (c := .final) hq ((allowed_final_iff _).mpr hphase) (performFinal_eq s B rest hparse)⟩
  rw [List.length_cons] at blocks
  split_ifs at blocks ⊢ <;> omega

end Sys2Proof.Machine
end

section
/-! PROOFS. The padded message cut after its full chunks, and what a host has streamed (40_padding.md rules R108 and R110). -/

namespace Sys2Proof.Machine

theorem length_take_fullChunks (m : List Byte) : (m.take (64 * (m.length / 64))).length = 64 * (m.length / 64) :=
  List.length_take_of_le (by omega)

/-- Settles O48: the message is its full chunks and a rest, which PadTail completes; parsing goes chunk by chunk. -/
theorem padTailCompletesThePaddedMessage : Obligations.PadTailCompletesThePaddedMessage := by
  intro m n hn
  have cut := List.take_append_drop (64 * (m.length / 64)) m
  have whole : (m.take (64 * (m.length / 64))).length % 64 = 0 := by
    rw [length_take_fullChunks]
    omega
  have left : (m.drop (64 * (m.length / 64))).length = m.length % 64 := by
    rw [List.length_drop]
    omega
  have hfull := parse_of_multiple _ whole
  obtain ⟨B, rest, hlast⟩ := parse_padTail (m.drop (64 * (m.length / 64))) n
  have hpad := pad_eq_append_padTail _ (m.drop (64 * (m.length / 64))) n whole (by rw [cut, hn])
  rw [cut] at hpad
  refine ⟨_, _, _, hpad, hfull, hlast, parse_append _ _ _ _ hfull hlast, ?_⟩
  rw [length_parse_padTail _ n _ (by omega) hlast, left]

/-- The full chunks of a message are the whole chunks in front of fewer than 64 bytes. -/
theorem fullChunks_append (p buf : List Byte) (hp : p.length % 64 = 0) (hbuf : buf.length < 64) :
    64 * ((p ++ buf).length / 64) = p.length := by
  rw [List.length_append]
  omega

/-- Settles O49: by `Streamed`, BUF is what is left after the whole chunks that were folded. -/
theorem streamingKeepsThePaddingInvariant : Obligations.StreamingKeepsThePaddingInvariant := by
  intro m s h
  obtain ⟨hphase, hmsglen, hbuf, -, p, full, rfl, hp, hjob⟩ := streamed_of_streams h
  obtain ⟨whole, -⟩ := parse_eq_ok p full hp
  rw [fullChunks_append p s.buf whole hbuf, List.drop_left, List.take_left]
  exact ⟨hphase, hmsglen, rfl, full, hp, hjob⟩

end Sys2Proof.Machine
end

section
/-! PROOFS. The window during a block (42_compression.md rule R143). -/

namespace Sys2Proof.Machine

/-- Settles O40: after Load and t rounds the head block is in progress at round t. -/
theorem windowSuppliesTheSchedule : Obligations.WindowSuppliesTheSchedule := by
  intro s B rest t j hq hj
  have loaded : s.load.t.val = 0 := by rw [State.load_cons s B rest hq]; rfl
  obtain ⟨inBlock, rounds, -⟩ := engineSteps_rounds B rest t s.load ((State.load_Q s).trans hq) (inBlock_load s B rest hq) (by omega)
  rw [loaded, Nat.zero_add] at rounds
  have word := inBlock.window j (by omega)
  rwa [rounds] at word

end Sys2Proof.Machine
end

section
/-! PROOFS. The invariant of the machine (10_state.md rules R26 to R35; 40_padding.md rule R109; 42_compression.md rules R141 and R143;
44_commands.md rules R191 and R192). -/

namespace Sys2Proof.Machine

/-! ## What the invariant does not speak of -/

theorem State.Inv.with_unseen {s : State} (h : s.Inv) (M : Block) (dataIn : Word) (response : BusResponse) (basePage : Nat)
    (pending : List Event) (freeDraws : Nat) :
    State.Inv { s with
      M := M, dataIn := dataIn, response := response, basePage := basePage, pending := pending, freeDraws := freeDraws } :=
  { h with inBlock := fun B rest hq => ⟨(h.inBlock B rest hq).working, (h.inBlock B rest hq).window⟩ }

theorem State.Inv.takeEvent {s : State} (h : s.Inv) (rest : List Event) : (s.takeEvent rest).Inv := h.with_unseen ..

theorem State.Inv.acknowledge {s : State} (h : s.Inv) : s.acknowledge.Inv := h.with_unseen ..

/-! ## What it says of an idle engine -/

theorem State.Inv.setdv_of_idle {s : State} (h : s.Inv) (hq : s.Q = []) : s.setdv = false :=
  Bool.eq_false_iff.mpr fun hset => (h.setdvJob hset).1 hq

theorem State.Inv.dv_of_not_finalized {s : State} (h : s.Inv) (hphase : s.phase ≠ .finalized) : s.dv = false :=
  Bool.eq_false_iff.mpr fun hdv => hphase (h.dvFinal hdv).1

theorem State.Inv.dv_of_busy {s : State} (h : s.Inv) (hq : s.Q ≠ []) : s.dv = false :=
  Bool.eq_false_iff.mpr fun hdv => hq (h.dvFinal hdv).2

theorem State.Inv.buf_lt {s : State} (h : s.Inv) : s.buf.length < 64 := by
  by_cases hphase : s.phase = .finalized
  · simp [h.bufFinal hphase]
  · rw [h.bufCounted hphase]
    exact Nat.mod_lt _ (by decide)

/-! ## Errors -/

theorem errorFlag_raise (s : State) (c d : EngineError) : (s.raise c).errorFlag d = (s.errorFlag d || c == d) := by
  cases d with
  | illegalCmd => exact State.raise_errIllegal s c
  | busyWrite => exact State.raise_errBusy s c
  | sequence => exact State.raise_errSeq s c
  | inputTooLarge => exact State.raise_errTooLarge s c

/-- Recording an error sets CAUSE to an error whose flag is set, the first one (R224). -/
theorem State.Inv.raise {s : State} (h : s.Inv) (c : EngineError) : (s.raise c).Inv where
  bufCounted := by simpa using h.bufCounted
  bufFinal := by simpa using h.bufFinal
  queueBound := by simpa using h.queueBound
  twoBlocks := by simpa using h.twoBlocks
  setdvJob := by simpa using h.setdvJob
  dvFinal := by simpa using h.dvFinal
  errorPhase hphase := by
    rw [State.raise_phase] at hphase
    obtain ⟨htoo, hq⟩ := h.errorPhase hphase
    exact ⟨by simp [htoo], by simpa using hq⟩
  causeNone := by
    refine iff_of_false (by simp) fun hnone => ?_
    have raised := hnone c
    simp [errorFlag_raise] at raised
  causeFlag d hd := by
    rw [errorFlag_raise]
    rw [State.raise_cause, Option.some.injEq] at hd
    cases hcause : s.cause with
    | none =>
      rw [hcause, Option.getD_none] at hd
      simp [hd]
    | some e =>
      rw [hcause, Option.getD_some] at hd
      simp [h.causeFlag d (hcause.trans (congrArg some hd))]
  inBlock B rest hq := by
    rw [State.raise_Q] at hq
    obtain ⟨hworking, hwindow⟩ := h.inBlock B rest hq
    exact ⟨by simpa using hworking, by simpa using hwindow⟩

/-! ## Commands -/

theorem inv_init {s : State} (h : s.Inv) (hq : s.Q = []) :
    State.Inv { s.clearErrors with H := initialHash, msglen := 0, buf := [], phase := .absorb, dv := false } where
  bufCounted _ := rfl
  bufFinal := nofun
  queueBound := h.queueBound
  twoBlocks := h.twoBlocks
  setdvJob hset := absurd hset (by simp [h.setdv_of_idle hq])
  dvFinal := nofun
  errorPhase := nofun
  causeNone := iff_of_true rfl fun c => by cases c <;> rfl
  causeFlag := nofun
  inBlock := headInBlock_of_idle hq

theorem inv_refuseTooLarge {s : State} (h : s.Inv) (hq : s.Q = []) (hphase : s.phase = .absorb) : (refuseTooLarge s).Inv :=
  have hraised := h.raise .inputTooLarge
  have hdv : s.dv = false := h.dv_of_not_finalized (by simp [hphase])
  have hsetdv : s.setdv = false := h.setdv_of_idle hq
  { hraised with
    bufCounted := fun _ => hraised.bufCounted (by simp [hphase])
    bufFinal := nofun
    setdvJob := fun hset => absurd hset (by simp [refuseTooLarge, hsetdv])
    dvFinal := fun hset => absurd hset (by simp [refuseTooLarge, hdv])
    errorPhase := fun _ => ⟨by simp [refuseTooLarge], by simp [refuseTooLarge, hq]⟩
    inBlock := headInBlock_of_idle (by simp [refuseTooLarge, hq]) }

/-- The bytes of an APPEND.n are counted by MSGLEN below 2^61 (R187). -/
theorem toNat_msglen_add {x : BitVec 61} {n : ByteCount} (hl : x.toNat + n.toNat < 2 ^ 61) :
    (x + BitVec.ofNat 61 n.toNat).toNat = x.toNat + n.toNat := by
  rw [BitVec.toNat_add, BitVec.toNat_ofNat, Nat.add_mod_mod, Nat.mod_eq_of_lt hl]

theorem inv_appendedShort {n : ByteCount} {s : State} (h : s.Inv) (hq : s.Q = []) (hphase : s.phase = .absorb)
    (hl : s.msglen.toNat + n.toNat < 2 ^ 61) (hb : s.buf.length + n.toNat < 64) : (appendedShort n s).Inv :=
  have counted : s.buf.length = s.msglen.toNat % 64 := h.bufCounted (by simp [hphase])
  { h with
    bufCounted := fun _ => by
      simp only [appendedShort, List.length_append, length_appendBytes, toNat_msglen_add hl]
      omega
    bufFinal := fun hfinal => by simp [appendedShort, hphase] at hfinal
    inBlock := headInBlock_of_idle hq }

theorem inv_appendedFull {n : ByteCount} {s : State} (h : s.Inv) (hphase : s.phase = .absorb)
    (hl : s.msglen.toNat + n.toNat < 2 ^ 61) (hf : 64 ≤ s.buf.length + n.toNat) : (appendedFull n s).Inv :=
  have counted : s.buf.length = s.msglen.toNat % 64 := h.bufCounted (by simp [hphase])
  have hdv : s.dv = false := h.dv_of_not_finalized (by simp [hphase])
  have hn := ByteCount.toNat_le n
  { h with
    bufCounted := fun _ => by
      simp only [appendedFull, List.length_drop, List.length_append, length_appendBytes, toNat_msglen_add hl]
      omega
    bufFinal := fun hfinal => by simp [appendedFull, hphase] at hfinal
    queueBound := by simp [appendedFull]
    twoBlocks := by simp [appendedFull]
    setdvJob := nofun
    dvFinal := fun hset => absurd hset (by simp [appendedFull, hdv])
    errorPhase := fun herror => by simp [appendedFull, hphase] at herror
    inBlock := headInBlock_of_cons rfl (inBlock_of_load _ _ rfl rfl rfl) }

theorem inv_final {s : State} {B : Block} {rest : List Block} (h : s.Inv) (hphase : s.phase = .absorb)
    (hparse : parse (padTail s.buf s.msglen) = .ok (B :: rest)) :
    State.Inv
      { s with
        Q := B :: rest, buf := [], phase := .finalized, setdv := true, working := seedWorking s.H, window := B, t := 0 } :=
  have hdv : s.dv = false := h.dv_of_not_finalized (by simp [hphase])
  have blocks := length_parse_padTail s.buf s.msglen _ (Nat.le_of_lt_succ h.buf_lt) hparse
  { h with
    bufCounted := fun hnot => absurd rfl hnot
    bufFinal := fun _ => rfl
    queueBound := by
      dsimp only
      split_ifs at blocks <;> omega
    twoBlocks := fun _ => rfl
    setdvJob := fun _ => ⟨List.cons_ne_nil B rest, rfl⟩
    dvFinal := fun hset => absurd hset (by simp [hdv])
    errorPhase := nofun
    inBlock := headInBlock_of_cons rfl (inBlock_of_load _ _ rfl rfl rfl) }

theorem inv_compress {s : State} (h : s.Inv) (hphase : s.phase ≠ .error) :
    State.Inv { s with dv := false, Q := [s.M], setdv := false, working := seedWorking s.H, window := s.M, t := 0 } :=
  { h with
    queueBound := Nat.le_succ 1
    twoBlocks := nofun
    setdvJob := nofun
    dvFinal := nofun
    errorPhase := fun herror => absurd herror hphase
    inBlock := headInBlock_of_cons rfl (inBlock_of_load _ _ rfl rfl rfl) }

theorem inv_append {n : ByteCount} {s s1 : State} (h : s.Inv) (hq : s.Q = []) (hphase : s.phase = .absorb)
    (hp : performAppend n s = .ok s1) : s1.Inv := by
  rcases Nat.lt_or_ge (s.msglen.toNat + n.toNat) (2 ^ 61) with hl | hl
  · rcases Nat.lt_or_ge (s.buf.length + n.toNat) 64 with hb | hf
    · rw [performAppend_short n s hq hl hb] at hp
      cases hp
      exact inv_appendedShort h hq hphase hl hb
    · rw [performAppend_full n s hq hl h.buf_lt hf] at hp
      cases hp
      exact inv_appendedFull h hphase hl hf
  · rw [performAppend_tooLarge n s hl] at hp
    cases hp
    exact inv_refuseTooLarge h hq hphase

theorem inv_perform {c : Command} {s s1 : State} (h : s.Inv) (hq : s.Q = []) (ha : allowed c s.phase = true)
    (hp : perform c s = .ok s1) : s1.Inv := by
  cases c with
  | nop =>
    cases hp
    exact h
  | init =>
    cases hp
    exact inv_init h hq
  | append n => exact inv_append h hq ((allowed_append_iff n _).mp ha) hp
  | final =>
    obtain ⟨B, rest, hparse⟩ := parse_padTail s.buf s.msglen
    rw [perform, performFinal_eq s B rest hparse] at hp
    cases hp
    exact inv_final h ((allowed_final_iff _).mp ha) hparse
  | compress =>
    rw [perform, performCompress_eq] at hp
    cases hp
    exact inv_compress h ((allowed_compress_iff _).mp ha)

/-! ## Operations, engine steps and steps -/

/-- With no job pending the datapath is in no block, so H may be written (R201). -/
theorem inv_writeH {s : State} (h : s.Inv) (hq : s.Q = []) (j : Fin 8) (v : Word) : (s.writeH j v).Inv :=
  { h with
    dvFinal := nofun
    inBlock := headInBlock_of_idle hq }

theorem inv_exec {i : Instr} {s s' : State} (h : s.Inv) (he : exec i s = .next s') : s'.Inv := by
  cases exec_result i s s' he with
  | read w k _ => exact h.with_unseen ..
  | ignored _ => exact h.acknowledge
  | busy _ _ => exact (h.raise _).acknowledge
  | writeH j v _ hq => exact (inv_writeH h hq j v).acknowledge
  | writeM j v _ _ => exact h.with_unseen ..
  | writeDataIn v _ _ => exact h.with_unseen ..
  | illegal v e _ _ _ => exact (h.raise _).acknowledge
  | refused c _ _ _ => exact (h.raise _).acknowledge
  | performed c s1 _ hq ha hp => exact (inv_perform h hq ha hp).acknowledge

theorem inv_complete {s : State} {B : Block} (h : s.Inv) (hq : s.Q = [B]) : s.foldHead.complete.Inv :=
  have hidle : s.foldHead.complete.Q = [] := by simp [hq]
  { h with
    queueBound := by
      rw [hidle]
      exact Nat.zero_le 2
    twoBlocks := by
      rw [hidle]
      nofun
    setdvJob := nofun
    dvFinal := fun hset => by
      have hset' : s.dv = true ∨ s.setdv = true := by simpa using hset
      have hphase : s.phase = .finalized := hset'.elim (fun hdv => (h.dvFinal hdv).1) (fun hdv => (h.setdvJob hdv).2)
      exact ⟨by simp [hphase], hidle⟩
    errorPhase := fun herror => ⟨(h.errorPhase herror).1, hidle⟩
    inBlock := headInBlock_of_idle hidle }

/-- Only a FINAL job has a next block, and it is the job's last (R192). -/
theorem inv_nextBlock {s : State} {B C : Block} {rest : List Block} (h : s.Inv) (hq : s.Q = B :: C :: rest) :
    s.foldHead.load.Inv := by
  have busy : s.Q ≠ [] := by simp [hq]
  have last : rest.length = 0 := by
    have bound := h.queueBound
    rw [hq, List.length_cons, List.length_cons] at bound
    omega
  rw [← addBackStep_more s B C rest hq, addBackStep_of_more s B C rest hq]
  exact { h with
    queueBound := by
      dsimp only [List.length_cons]
      omega
    twoBlocks := fun htwo => by
      dsimp only [List.length_cons] at htwo
      omega
    setdvJob := fun hset => ⟨List.cons_ne_nil C rest, (h.setdvJob hset).2⟩
    dvFinal := fun hset => absurd (h.dvFinal hset).2 busy
    errorPhase := fun herror => absurd (h.errorPhase herror).2 busy
    inBlock := headInBlock_of_cons rfl (inBlock_of_load _ _ rfl rfl rfl) }

theorem inv_engineStep {s : State} (h : s.Inv) : s.engineStep.Inv := by
  have headInBlock := engineStep_headInBlock h.inBlock
  rcases engineStep_cases s with ⟨-, e⟩ | ⟨-, ht, e⟩ | ⟨-, B, hq, e⟩ | ⟨-, B, C, rest, hq, e⟩ <;> rw [e] at headInBlock ⊢
  · exact h
  · exact { h with inBlock := headInBlock }
  · exact inv_complete h hq
  · exact inv_nextBlock h hq

theorem inv_engineSteps (n : Nat) {s : State} (h : s.Inv) : (s.engineSteps n).Inv := by
  induction n generalizing s with
  | zero => exact h
  | succ n ih => exact ih (inv_engineStep h)

/-- Settles O52: nothing is pending at reset and no error is recorded. -/
theorem resetMeetsTheInvariant : Obligations.ResetMeetsTheInvariant where
  bufCounted _ := rfl
  bufFinal := nofun
  queueBound := Nat.zero_le 2
  twoBlocks := nofun
  setdvJob := nofun
  dvFinal := nofun
  errorPhase := nofun
  causeNone := iff_of_true rfl fun c => by cases c <;> rfl
  causeFlag := nofun
  inBlock := nofun

/-- Settles O53: by what a step can do, the invariant is kept by engine steps, resets, BusErrors and operations. -/
theorem stepKeepsTheInvariant : Obligations.StepKeepsTheInvariant := by
  intro s s' h hstep
  obtain ⟨-, rfl⟩ | ⟨rest, -, rfl⟩ | ⟨rest, -, rfl⟩ | ⟨a, rest, r, -, -, rfl⟩ | ⟨a, rest, i, -, -, he⟩ := step_cases s s' hstep
  · exact inv_engineStep h
  · exact inv_engineStep (h.takeEvent rest)
  · exact resetMeetsTheInvariant.with_unseen ..
  · exact h.with_unseen ..
  · exact inv_exec (h.takeEvent rest) he

end Sys2Proof.Machine
end

section
/-! PROOFS. What changes the architectural elements: H, M, DATA_IN, BASE, DV, PHASE and the errors (10_state.md rules R20, R24, R25,
R27, R34 and R35; 60_exceptions.md rules R231 and R232). -/

namespace Sys2Proof.Machine

/-! ## What a step and an operation can do, grouped by what they change -/

/-- The next event is the engine's turn, given or left when no event is. -/
def State.EngineTurn (s : State) : Prop := s.pending = [] ∨ ∃ rest, s.pending = .engine :: rest

/-- An access is next that decodes to operation i. -/
def State.NextOperation (s : State) (i : Instr) : Prop := ∃ a rest, s.pending = .access a :: rest ∧ decode s.basePage a = .ok i

/-- Everything a step can do when it answers a next state, the two kinds of engine's turn as one. -/
inductive StepEffect (s : State) : State → Prop where
  | engine (rest : List Event) : s.EngineTurn → StepEffect s (s.takeEvent rest).engineStep
  | reset (rest : List Event) : s.pending = .reset :: rest → StepEffect s (resetEvent (s.takeEvent rest))
  | busError (rest : List Event) : StepEffect s ((s.takeEvent rest).respond .busError)
  | operation (i : Instr) (rest : List Event) (s' : State) : s.NextOperation i → exec i (s.takeEvent rest) = .next s' →
      StepEffect s s'

theorem step_effect {s s' : State} (h : step s = .next s') : StepEffect s s' := by
  obtain ⟨hp, rfl⟩ | ⟨rest, hp, rfl⟩ | ⟨rest, hp, rfl⟩ | ⟨a, rest, r, -, -, rfl⟩ | ⟨a, rest, i, hp, hd, he⟩ := step_cases s s' h
  · have same : s.takeEvent [] = s := by rw [State.takeEvent, ← hp]
    have turn : StepEffect s (s.takeEvent []).engineStep := .engine [] (.inl hp)
    rwa [same] at turn
  · exact .engine rest (.inr ⟨rest, hp⟩)
  · exact .reset rest hp
  · exact .busError rest
  · exact .operation i rest s' ⟨a, rest, hp, hd⟩ he

/-- Everything an operation can do: answer, record an error, or with BUSY = 0 write a register or perform a command. -/
inductive ExecEffect (i : Instr) (s : State) : State → Prop where
  | answered (response : BusResponse) (freeDraws : Nat) : ExecEffect i s { s with response := response, freeDraws := freeDraws }
  | raised (c : EngineError) : ExecEffect i s (s.raise c).acknowledge
  | writeH (j : Fin 8) (v : Word) : i = .wrH j v → s.Q = [] → ExecEffect i s (s.writeH j v).acknowledge
  | writeM (j : Fin 16) (v : Word) : i = .wrM j v → s.Q = [] → ExecEffect i s (s.writeM j v).acknowledge
  | writeDataIn (v : Word) : i = .wrDataIn v → s.Q = [] → ExecEffect i s (s.writeDataIn v).acknowledge
  | performed (c : Command) (s1 : State) : IsCommand i c → s.Q = [] → allowed c s.phase = true → PerformResult c s s1 →
      ExecEffect i s s1.acknowledge

theorem exec_effect {i : Instr} {s s' : State} (h : exec i s = .next s') : ExecEffect i s s' := by
  cases exec_result i s s' h with
  | read w k _ => exact .answered ..
  | ignored _ => exact .answered .okay s.freeDraws
  | busy _ _ => exact .raised _
  | writeH j v hi hq => exact .writeH j v hi hq
  | writeM j v hi hq => exact .writeM j v hi hq
  | writeDataIn v hi hq => exact .writeDataIn v hi hq
  | illegal v e _ _ _ => exact .raised _
  | refused c _ _ _ => exact .raised _
  | performed c s1 hi hq ha hp => exact .performed c s1 hi hq ha (perform_result c s s1 hp)

/-- The operation of an access that is a command is the command's own (R79). -/
theorem State.NextOperation.eq_instr {s : State} {i : Instr} {c : Command} (h : s.NextOperation i) (hi : IsCommand i c) :
    i = c.instr := by
  obtain ⟨a, rest, -, hd⟩ := h
  exact hi.eq_instr s.basePage a hd

/-! ## H (R20) -/

theorem performed_H {c : Command} {s s1 : State} (h : PerformResult c s s1) : c = .init ∨ s1.H = s.H := by
  cases h with
  | init hc => exact .inl hc
  | nop _ => exact .inr rfl
  | tooLarge n _ _ => exact .inr (State.raise_H ..)
  | append _ _ _ _ _ _ _ _ _ => exact .inr rfl
  | final _ _ _ _ => exact .inr rfl
  | compress _ => exact .inr rfl

theorem exec_writers_of_H {i : Instr} {s s' : State} (h : exec i s = .next s') (hne : s'.H ≠ s.H) :
    s.Q = [] ∧ (IsCommand i .init ∨ ∃ j v, i = .wrH j v) := by
  cases exec_effect h with
  | answered _ _ => exact absurd rfl hne
  | raised c => exact absurd (State.raise_H ..) hne
  | writeH j v hi hq => exact ⟨hq, .inr ⟨j, v, hi⟩⟩
  | writeM j v _ _ => exact absurd rfl hne
  | writeDataIn v _ _ => exact absurd rfl hne
  | performed c s1 hi hq _ hp =>
    obtain rfl | same := performed_H hp
    · exact ⟨hq, .inl hi⟩
    · exact absurd same hne

/-- The one engine step that changes H is the add-back (R147, R151). -/
theorem addBack_of_engineStep_changes_H {s : State} (hne : s.engineStep.H ≠ s.H) : s.Q ≠ [] ∧ s.t.val = 64 := by
  rcases engineStep_cases s with ⟨-, e⟩ | ⟨-, ht, e⟩ | ⟨ht, B, hq, -⟩ | ⟨ht, B, C, rest, hq, -⟩
  · exact absurd (congrArg State.H e) hne
  · exact absurd (congrArg State.H e) hne
  · exact ⟨by simp [hq], ht⟩
  · exact ⟨by simp [hq], ht⟩

/-- Settles O54: the writers of H among the operations are INIT and WR_H, and among the engine steps the add-back. -/
theorem runningStateChangesOnlyByItsFourWriters : Obligations.RunningStateChangesOnlyByItsFourWriters := by
  intro s s' h hne
  cases step_effect h with
  | engine rest turn =>
    obtain ⟨hq, ht⟩ := addBack_of_engineStep_changes_H (s := s.takeEvent rest) hne
    exact .inr (.inr ⟨hq, ht, turn⟩)
  | reset rest hp => exact .inl ⟨rest, hp⟩
  | busError rest => exact absurd rfl hne
  | operation i rest _ next he =>
    obtain ⟨hq, writer⟩ := exec_writers_of_H he hne
    have named : i = .init ∨ ∃ j v, i = .wrH j v := writer.imp_left next.eq_instr
    obtain ⟨a, rest', hp, hd⟩ := next
    exact .inr (.inl ⟨a, rest', i, hp, hd, hq, named⟩)

/-! ## M, DATA_IN and BASE (R24, R25, log 2) -/

theorem performed_inputs {c : Command} {s s1 : State} (h : PerformResult c s s1) :
    s1.M = s.M ∧ s1.dataIn = s.dataIn ∧ s1.basePage = s.basePage := by
  cases h with
  | tooLarge n _ _ => exact ⟨State.raise_M .., State.raise_dataIn .., State.raise_basePage ..⟩
  | init _ => exact ⟨rfl, rfl, rfl⟩
  | nop _ => exact ⟨rfl, rfl, rfl⟩
  | append _ _ _ _ _ _ _ _ _ => exact ⟨rfl, rfl, rfl⟩
  | final _ _ _ _ => exact ⟨rfl, rfl, rfl⟩
  | compress _ => exact ⟨rfl, rfl, rfl⟩

theorem engineStep_inputs (s : State) :
    s.engineStep.M = s.M ∧ s.engineStep.dataIn = s.dataIn ∧ s.engineStep.basePage = s.basePage := by
  obtain ⟨_, _, _, _, _, _, _, e⟩ := engineStep_frame s
  rw [e]
  exact ⟨rfl, rfl, rfl⟩

theorem exec_writers_of_M {i : Instr} {s s' : State} (h : exec i s = .next s') :
    s'.M = s.M ∨ ∃ j v, i = .wrM j v ∧ s.Q = [] ∧ s'.M = s.M.set j v := by
  cases exec_effect h with
  | answered _ _ => exact .inl rfl
  | raised c => exact .inl (State.raise_M ..)
  | writeH j v _ _ => exact .inl rfl
  | writeM j v hi hq => exact .inr ⟨j, v, hi, hq, rfl⟩
  | writeDataIn v _ _ => exact .inl rfl
  | performed c s1 _ _ _ hp => exact .inl (performed_inputs hp).1

theorem exec_writers_of_dataIn {i : Instr} {s s' : State} (h : exec i s = .next s') :
    s'.dataIn = s.dataIn ∨ ∃ v, i = .wrDataIn v ∧ s.Q = [] ∧ s'.dataIn = v := by
  cases exec_effect h with
  | answered _ _ => exact .inl rfl
  | raised c => exact .inl (State.raise_dataIn ..)
  | writeH j v _ _ => exact .inl rfl
  | writeM j v _ _ => exact .inl rfl
  | writeDataIn v hi hq => exact .inr ⟨v, hi, hq, rfl⟩
  | performed c s1 _ _ _ hp => exact .inl (performed_inputs hp).2.1

theorem exec_basePage {i : Instr} {s s' : State} (h : exec i s = .next s') : s'.basePage = s.basePage := by
  cases exec_effect h with
  | answered _ _ => rfl
  | raised c => exact State.raise_basePage ..
  | writeH j v _ _ => rfl
  | writeM j v _ _ => rfl
  | writeDataIn v _ _ => rfl
  | performed c s1 _ _ _ hp => exact (performed_inputs hp).2.2

theorem step_basePage {s s' : State} (h : step s = .next s') : s'.basePage = s.basePage := by
  cases step_effect h with
  | engine rest _ => exact (engineStep_inputs (s.takeEvent rest)).2.2
  | reset rest _ => rfl
  | busError rest => rfl
  | operation i rest _ _ he =>
    have kept := exec_basePage he
    exact kept

/-- No step but a reset and an accepted write changes M[i]. -/
theorem step_writers_of_M {s s' : State} (h : step s = .next s') (hnoReset : ∀ rest, s.pending ≠ .reset :: rest) (i : Fin 16)
    (hne : s'.M[i] ≠ s.M[i]) :
    ∃ a rest v, s.pending = .access a :: rest ∧ decode s.basePage a = .ok (.wrM i v) ∧ s.Q = [] ∧ s'.M[i] = v := by
  have changed : s'.M ≠ s.M := fun e => hne (by rw [e])
  cases step_effect h with
  | engine rest _ => exact absurd (engineStep_inputs (s.takeEvent rest)).1 changed
  | reset rest hp => exact absurd hp (hnoReset rest)
  | busError rest => exact absurd rfl changed
  | operation op rest _ next he =>
    obtain same | ⟨j, v, rfl, hq, e⟩ := exec_writers_of_M he
    · exact absurd same changed
    · obtain ⟨a, rest', hp, hd⟩ := next
      have stored : s'.M[i] = if i = j then v else s.M[i] := by
        rw [e]
        exact getElem_set_block s.M j i v
      rw [stored] at hne
      obtain rfl : i = j := by_contra fun hij => hne (if_neg hij)
      exact ⟨a, rest', v, hp, hd, hq, by rw [stored, if_pos rfl]⟩

theorem step_writers_of_dataIn {s s' : State} (h : step s = .next s') (hnoReset : ∀ rest, s.pending ≠ .reset :: rest)
    (hne : s'.dataIn ≠ s.dataIn) :
    ∃ a rest v, s.pending = .access a :: rest ∧ decode s.basePage a = .ok (.wrDataIn v) ∧ s.Q = [] ∧ s'.dataIn = v := by
  cases step_effect h with
  | engine rest _ => exact absurd (engineStep_inputs (s.takeEvent rest)).2.1 hne
  | reset rest hp => exact absurd hp (hnoReset rest)
  | busError rest => exact absurd rfl hne
  | operation i rest _ next he =>
    obtain same | ⟨v, rfl, hq, e⟩ := exec_writers_of_dataIn he
    · exact absurd same hne
    · obtain ⟨a, rest', hp, hd⟩ := next
      exact ⟨a, rest', v, hp, hd, hq, e⟩

/-- Settles O55: of the operations only WR_M and WR_DATA_IN write these registers, and nothing writes BASE. -/
theorem inputRegistersChangeOnlyByTheirWrites : Obligations.InputRegistersChangeOnlyByTheirWrites :=
  ⟨fun _ _ h hnoReset => ⟨step_writers_of_M h hnoReset, step_writers_of_dataIn h hnoReset⟩, fun _ _ => step_basePage⟩

/-! ## DV (R34) -/

theorem performed_dv {c : Command} {s s1 : State} (h : PerformResult c s s1) :
    s1.dv = s.dv ∨ (s1.dv = false ∧ (c = .init ∨ c = .compress)) := by
  cases h with
  | tooLarge n _ _ => exact .inl (State.raise_dv ..)
  | init hc => exact .inr ⟨rfl, .inl hc⟩
  | compress hc => exact .inr ⟨rfl, .inr hc⟩
  | nop _ => exact .inl rfl
  | append _ _ _ _ _ _ _ _ _ => exact .inl rfl
  | final _ _ _ _ => exact .inl rfl

/-- An operation keeps DV or clears it, and those that clear it are INIT, COMPRESS and WR_H. -/
theorem exec_writers_of_dv {i : Instr} {s s' : State} (h : exec i s = .next s') :
    s'.dv = s.dv ∨
      (s'.dv = false ∧ s.Q = [] ∧ (IsCommand i .init ∨ IsCommand i .compress ∨ ∃ j v, i = .wrH j v)) := by
  cases exec_effect h with
  | answered _ _ => exact .inl rfl
  | raised c => exact .inl (State.raise_dv ..)
  | writeH j v hi hq => exact .inr ⟨rfl, hq, .inr (.inr ⟨j, v, hi⟩)⟩
  | writeM j v _ _ => exact .inl rfl
  | writeDataIn v _ _ => exact .inl rfl
  | performed c s1 hi hq _ hp =>
    obtain same | ⟨cleared, rfl | rfl⟩ := performed_dv hp
    · exact .inl same
    · exact .inr ⟨cleared, hq, .inl hi⟩
    · exact .inr ⟨cleared, hq, .inr (.inl hi)⟩

/-- An engine step keeps DV, or it completes a job, which keeps DV or sets it from SETDV (R149). -/
theorem engineStep_dv (s : State) : s.engineStep.dv = s.dv ∨
    (s.engineStep.dv = (s.dv || s.setdv) ∧ s.t.val = 64 ∧ s.Q.length = 1 ∧ s.engineStep.Q = []) := by
  rcases engineStep_cases s with ⟨-, e⟩ | ⟨-, ht, e⟩ | ⟨ht, B, hq, e⟩ | ⟨-, B, C, rest, hq, e⟩ <;> rw [e]
  · exact .inl rfl
  · exact .inl rfl
  · exact .inr ⟨rfl, ht, by simp [hq], by simp [hq]⟩
  · exact .inl (by simp)

theorem step_sets_dv {s s' : State} (h : step s = .next s') (h0 : s.dv = false) (h1 : s'.dv = true) :
    s.setdv = true ∧ s.t.val = 64 ∧ s.Q.length = 1 ∧ s'.Q = [] ∧ s.EngineTurn := by
  have changed : s'.dv ≠ s.dv := by simp [h0, h1]
  cases step_effect h with
  | engine rest turn =>
    obtain same | ⟨e, ht, hlen, idle⟩ := engineStep_dv (s.takeEvent rest)
    · exact absurd same changed
    · have set : (s.dv || s.setdv) = true := e.symm.trans h1
      rw [h0, Bool.false_or] at set
      exact ⟨set, ht, hlen, idle, turn⟩
  | reset rest _ => cases h1
  | busError rest => exact absurd rfl changed
  | operation i rest _ _ he =>
    obtain same | ⟨cleared, -, -⟩ := exec_writers_of_dv he
    · exact absurd same changed
    · rw [cleared] at h1
      cases h1

theorem step_clears_dv {s s' : State} (h : step s = .next s') (h1 : s.dv = true) (h0 : s'.dv = false) :
    (∃ rest, s.pending = .reset :: rest) ∨
    (∃ i, s.NextOperation i ∧ s.Q = [] ∧ (i = .init ∨ i = .compress ∨ ∃ j v, i = .wrH j v)) := by
  have changed : s'.dv ≠ s.dv := by simp [h0, h1]
  cases step_effect h with
  | engine rest _ =>
    obtain same | ⟨e, -, -, -⟩ := engineStep_dv (s.takeEvent rest)
    · exact absurd same changed
    · have kept : (s.dv || s.setdv) = false := e.symm.trans h0
      simp [h1] at kept
  | reset rest hp => exact .inl ⟨rest, hp⟩
  | busError rest => exact absurd rfl changed
  | operation i rest _ next he =>
    obtain same | ⟨-, hq, writer⟩ := exec_writers_of_dv he
    · exact absurd same changed
    · exact .inr ⟨i, next, hq, writer.imp next.eq_instr (Or.imp_left next.eq_instr)⟩

/-- Settles O56: operations only clear DV, and the engine sets it only as it completes a job with SETDV. -/
theorem digestValidIsSetAndClearedAsStated : Obligations.DigestValidIsSetAndClearedAsStated := by
  refine ⟨fun s s' h h0 h1 => step_sets_dv h h0 h1, fun s s' h h1 h0 => ?_⟩
  refine (step_clears_dv h h1 h0).imp_right fun ⟨i, next, hq, writer⟩ => ?_
  obtain ⟨a, rest, hp, hd⟩ := next
  exact ⟨a, rest, i, hp, hd, hq, writer⟩

/-! ## PHASE (R27, R231) -/

/-- What changes PHASE among the commands, with the phase that each leaves. -/
def PhaseChange (c : Command) (s s' : State) : Prop :=
  (c = .init ∧ s'.phase = .absorb) ∨ (c = .final ∧ s.phase = .absorb ∧ s'.phase = .finalized) ∨
    ((∃ n, c = .append n ∧ 2 ^ 61 ≤ s.msglen.toNat + n.toNat) ∧ s.phase = .absorb ∧ s'.phase = .error ∧ s'.errTooLarge = true)

theorem performed_phase {c : Command} {s s1 : State} (ha : allowed c s.phase = true) (h : PerformResult c s s1) :
    s1.phase = s.phase ∨ PhaseChange c s s1 := by
  cases h with
  | nop _ => exact .inl rfl
  | init hc => exact .inr (.inl ⟨hc, rfl⟩)
  | tooLarge n hc hl =>
    subst hc
    exact .inr (.inr (.inr ⟨⟨n, rfl, hl⟩, (allowed_append_iff n _).mp ha, rfl, by simp [refuseTooLarge]⟩))
  | append _ _ _ _ _ _ _ _ _ => exact .inl rfl
  | final B rest hc _ =>
    subst hc
    exact .inr (.inr (.inl ⟨rfl, (allowed_final_iff _).mp ha, rfl⟩))
  | compress _ => exact .inl rfl

theorem exec_writers_of_phase {i : Instr} {s s' : State} (h : exec i s = .next s') :
    s'.phase = s.phase ∨ ∃ c, IsCommand i c ∧ s.Q = [] ∧ PhaseChange c s s' := by
  cases exec_effect h with
  | answered _ _ => exact .inl rfl
  | raised c => exact .inl (State.raise_phase ..)
  | writeH j v _ _ => exact .inl rfl
  | writeM j v _ _ => exact .inl rfl
  | writeDataIn v _ _ => exact .inl rfl
  | performed c s1 hi hq ha hp => exact (performed_phase ha hp).imp_right fun change => ⟨c, hi, hq, change⟩

theorem engineStep_phase (s : State) : s.engineStep.phase = s.phase := by
  obtain ⟨_, _, _, _, _, _, _, e⟩ := engineStep_frame s
  rw [e]

/-- Settles O57: the engine keeps PHASE, and `PhaseChange` lists the commands that do not. -/
theorem phaseChangesAsStated : Obligations.PhaseChangesAsStated := by
  intro s s' h hne
  cases step_effect h with
  | engine rest _ => exact absurd (engineStep_phase (s.takeEvent rest)) hne
  | reset rest hp => exact .inl ⟨rest, hp⟩
  | busError rest => exact absurd rfl hne
  | operation i rest _ next he =>
    obtain same | ⟨c, hi, hq, change⟩ := exec_writers_of_phase he
    · exact absurd same hne
    · obtain rfl := next.eq_instr hi
      obtain ⟨a, rest', hp, hd⟩ := next
      refine .inr ⟨a, rest', c.instr, hp, hd, hq, ?_⟩
      obtain ⟨rfl, e⟩ | ⟨rfl, e⟩ | ⟨⟨n, rfl, hl⟩, e⟩ := change
      · exact .inl ⟨rfl, e⟩
      · exact .inr (.inl ⟨rfl, e⟩)
      · exact .inr (.inr ⟨⟨n, rfl, hl⟩, e⟩)

/-! ## Errors (R35, R231, R232) -/

/-- The errors recorded in two states are the same. -/
def SameErrors (s s' : State) : Prop := (∀ c, s'.errorFlag c = s.errorFlag c) ∧ s'.cause = s.cause

/-- At most one error has been raised, and a CAUSE that is not 0 stays (R224). -/
def RaisesAtMostOne (s s' : State) : Prop :=
  SameErrors s s' ∨ ∃ c, (∀ d, s'.errorFlag d = (s.errorFlag d || c == d)) ∧ s'.cause = some (s.cause.getD c)

theorem sameErrors_rfl (s : State) : SameErrors s s := ⟨fun _ => rfl, rfl⟩

theorem raisesAtMostOne_raise (s : State) (c : EngineError) : RaisesAtMostOne s (s.raise c) :=
  .inr ⟨c, errorFlag_raise s c, State.raise_cause s c⟩

theorem performed_errors {c : Command} {s s1 : State} (h : PerformResult c s s1) : c = .init ∨ RaisesAtMostOne s s1 := by
  cases h with
  | init hc => exact .inl hc
  | tooLarge n _ _ => exact .inr (raisesAtMostOne_raise s .inputTooLarge)
  | nop _ => exact .inr (.inl (sameErrors_rfl s))
  | append _ _ _ _ _ _ _ _ _ => exact .inr (.inl (sameErrors_rfl s))
  | final _ _ _ _ => exact .inr (.inl (sameErrors_rfl s))
  | compress _ => exact .inr (.inl (sameErrors_rfl s))

theorem exec_errors {i : Instr} {s s' : State} (h : exec i s = .next s') : IsCommand i .init ∨ RaisesAtMostOne s s' := by
  cases exec_effect h with
  | answered _ _ => exact .inr (.inl (sameErrors_rfl s))
  | raised c => exact .inr (raisesAtMostOne_raise s c)
  | writeH j v _ _ => exact .inr (.inl (sameErrors_rfl s))
  | writeM j v _ _ => exact .inr (.inl (sameErrors_rfl s))
  | writeDataIn v _ _ => exact .inr (.inl (sameErrors_rfl s))
  | performed c s1 hi _ _ hp =>
    obtain rfl | raises := performed_errors hp
    · exact .inl hi
    · exact .inr raises

theorem engineStep_errors (s : State) : SameErrors s s.engineStep := by
  obtain ⟨_, _, _, _, _, _, _, e⟩ := engineStep_frame s
  rw [e]
  exact sameErrors_rfl s

theorem step_errors {s s' : State} (h : step s = .next s') (hnoReset : ∀ rest, s.pending ≠ .reset :: rest)
    (hnoInit : ¬s.NextOperation .init) : RaisesAtMostOne s s' := by
  cases step_effect h with
  | engine rest _ => exact .inl (engineStep_errors (s.takeEvent rest))
  | reset rest hp => exact absurd hp (hnoReset rest)
  | busError rest => exact .inl (sameErrors_rfl s)
  | operation i rest _ next he =>
    obtain hinit | raises := exec_errors he
    · obtain rfl := next.eq_instr hinit
      exact absurd next hnoInit
    · exact raises

theorem RaisesAtMostOne.keeps_flag {s s' : State} (h : RaisesAtMostOne s s') {c : EngineError} (hc : s.errorFlag c = true) :
    s'.errorFlag c = true := by
  obtain ⟨flags, -⟩ | ⟨d, flags, -⟩ := h
  · rw [flags, hc]
  · rw [flags, hc, Bool.true_or]

theorem RaisesAtMostOne.keeps_cause {s s' : State} (h : RaisesAtMostOne s s') {c : EngineError} (hc : s.cause = some c) :
    s'.cause = some c := by
  obtain ⟨-, cause⟩ | ⟨d, -, cause⟩ := h
  · rw [cause, hc]
  · rw [cause, hc, Option.getD_some]

/-- A flag that is new is the raised error's. -/
theorem RaisesAtMostOne.new_flag_unique {s s' : State} (h : RaisesAtMostOne s s') {c c' : EngineError}
    (h0 : s.errorFlag c = false) (h1 : s'.errorFlag c = true) (h0' : s.errorFlag c' = false) (h1' : s'.errorFlag c' = true) :
    c = c' := by
  obtain ⟨flags, -⟩ | ⟨d, flags, -⟩ := h
  · rw [flags, h0] at h1
    cases h1
  · rw [flags, h0, Bool.false_or, beq_iff_eq] at h1
    rw [flags, h0', Bool.false_or, beq_iff_eq] at h1'
    exact h1.symm.trans h1'

/-- Settles O58: a step that is no reset and no INIT raises at most one error, and raising one keeps the recorded ones. -/
theorem errorsStayUntilInitOrReset : Obligations.ErrorsStayUntilInitOrReset := by
  intro s s' h hnoReset hnoInit
  have raises := step_errors h hnoReset fun ⟨a, rest, hp, hd⟩ => hnoInit a rest hp hd
  exact ⟨fun c => raises.keeps_flag, fun c => raises.keeps_cause, fun c c' => raises.new_flag_unique⟩

end Sys2Proof.Machine
end

section
/-! PROOFS. The pending job: what it will leave in H, when it completes, and that no digest is read before (42_compression.md rules R150
to R154; 43_digest.md rule R173; 70_reset_and_hazards.md rule R260). -/

namespace Sys2Proof.Machine

/-! ## Its result under every interleaving (R154) -/

/-- While BUSY = 1 no operation touches the running state (R228): its writers among them need BUSY = 0. -/
theorem exec_busy_H {i : Instr} {s s' : State} (hq : s.Q ≠ []) (h : exec i s = .next s') : s'.H = s.H :=
  by_contra fun hne => hq (exec_writers_of_H h hne).1

theorem step_jobResult {s s' : State} (h : s.Inv) (hq : s.Q ≠ []) (hnoReset : ∀ rest, s.pending ≠ .reset :: rest)
    (hstep : step s = .next s') : s'.jobResult = s.jobResult := by
  obtain ⟨-, rfl⟩ | ⟨rest, -, rfl⟩ | ⟨rest, hreset, -⟩ | ⟨a, rest, r, -, -, rfl⟩ | ⟨a, rest, i, -, -, he⟩ :=
    step_cases s s' hstep
  · exact engineStep_jobResult h.inBlock
  · exact engineStep_jobResult (h.takeEvent rest).inBlock
  · exact absurd hreset (hnoReset rest)
  · rfl
  · rw [State.jobResult, exec_busy_H (s := s.takeEvent rest) hq he, exec_busy_Q (s := s.takeEvent rest) hq he]
    rfl

/-- Settles O44: the fold is kept by every step, and with no block left it is H itself. -/
theorem jobResultSurvivesEveryInterleaving : Obligations.JobResultSurvivesEveryInterleaving := by
  intro s s' h hq hnoReset hstep
  have kept := step_jobResult h hq hnoReset hstep
  exact ⟨kept, fun hidle => (jobResult_of_idle hidle).symm.trans kept⟩

/-! ## The steps it takes (R152, R260) -/

/-- The engine steps that a pending job still needs: 65 a block, less the rounds its head block has had. -/
def State.stepsLeft (s : State) : Nat := 65 * s.Q.length - s.t.val

theorem stepsLeft_eq_zero_iff (s : State) : s.stepsLeft = 0 ↔ s.Q = [] := by
  have ht := s.t.isLt
  rw [State.stepsLeft, ← List.length_eq_zero_iff]
  omega

/-- A round is one step of the 65 of a block, and so is the add-back. -/
theorem stepsLeft_engineStep (s : State) : s.engineStep.stepsLeft = s.stepsLeft - 1 := by
  rcases engineStep_cases s with ⟨hq, e⟩ | ⟨hq, ht, e⟩ | ⟨ht, B, hq, e⟩ | ⟨ht, B, C, rest, hq, e⟩ <;> rw [e]
  · simp [State.stepsLeft, hq]
  · simp only [State.stepsLeft, State.roundStep_Q, State.roundStep_t]
    omega
  · simp [State.stepsLeft, hq, ht]
  · have loaded : s.foldHead.load.t = 0 := by rw [State.load_cons s.foldHead C rest (by simp [hq])]
    simp [State.stepsLeft, hq, ht, loaded]
    omega

theorem stepsLeft_engineSteps (n : Nat) (s : State) : (s.engineSteps n).stepsLeft = s.stepsLeft - n := by
  induction n generalizing s with
  | zero => rfl
  | succ n ih =>
    rw [engineSteps_succ, ih, stepsLeft_engineStep]
    omega

theorem engineSteps_jobResult (n : Nat) {s : State} (h : s.HeadInBlock) : (s.engineSteps n).jobResult = s.jobResult := by
  induction n generalizing s with
  | zero => rfl
  | succ n ih => rw [engineSteps_succ, ih (engineStep_headInBlock h), engineStep_jobResult h]

/-- SETDV becomes DV when the job completes (R149), so DV or SETDV stays as it was. -/
theorem engineStep_dv_or_setdv (s : State) : (s.engineStep.dv || s.engineStep.setdv) = (s.dv || s.setdv) := by
  rcases engineStep_cases s with ⟨-, e⟩ | ⟨-, ht, e⟩ | ⟨-, B, hq, e⟩ | ⟨-, B, C, rest, hq, e⟩ <;> rw [e]
  · rfl
  · simp
  · simp

theorem engineSteps_dv_or_setdv (n : Nat) (s : State) :
    ((s.engineSteps n).dv || (s.engineSteps n).setdv) = (s.dv || s.setdv) := by
  induction n generalizing s with
  | zero => rfl
  | succ n ih => rw [engineSteps_succ, ih, engineStep_dv_or_setdv]

theorem engineStep_pending (s : State) : s.engineStep.pending = s.pending := by
  obtain ⟨_, _, _, _, _, _, _, e⟩ := engineStep_frame s
  rw [e]

/-- With no event left the machine runs the engine alone. -/
theorem run_eq_engineSteps (n : Nat) {s : State} (hp : s.pending = []) : Sys2Proof.core.run n s = .next (s.engineSteps n) := by
  induction n generalizing s with
  | zero => rfl
  | succ n ih =>
    rw [run_succ_of_next Sys2Proof.core n s s.engineStep (step_no_event s hp), ih ((engineStep_pending s).trans hp)]
    rfl

/-- Settles O45: every engine step takes one of the steps left, and with none left the job has completed: the fold, which no step
changed, is in H, and SETDV has become DV. -/
theorem pendingJobCompletesWithin130Steps : Obligations.PendingJobCompletesWithin130Steps := by
  intro s h hq hp
  have bound := h.queueBound
  refine ⟨by omega, ⟨s.engineSteps s.stepsLeft, run_eq_engineSteps _ hp, ?done⟩, fun n hn => ⟨_, run_eq_engineSteps n hp, ?busy⟩⟩
  case done =>
    have idle : (s.engineSteps s.stepsLeft).Q = [] := by
      rw [← stepsLeft_eq_zero_iff, stepsLeft_engineSteps, Nat.sub_self]
    have hsetdv := (inv_engineSteps s.stepsLeft h).setdv_of_idle idle
    have hdv := engineSteps_dv_or_setdv s.stepsLeft s
    rw [hsetdv, h.dv_of_busy hq, Bool.or_false, Bool.false_or] at hdv
    exact ⟨idle, by rw [← jobResult_of_idle idle, engineSteps_jobResult _ h.inBlock], hdv⟩
  case busy =>
    have left : (s.engineSteps n).stepsLeft ≠ 0 := by
      rw [stepsLeft_engineSteps]
      exact Nat.sub_ne_zero_of_lt hn
    rwa [ne_eq, stepsLeft_eq_zero_iff] at left

/-! ## No partial digest (R46, R173) -/

/-- Settles O59: DIGEST and HEX read 0 while DV = 0, and the invariant gives DV = 1 to no busy engine and no other phase. -/
theorem noPartialDigest : Obligations.NoPartialDigest := by
  refine ⟨fun s hdv => ⟨fun i => ?_, fun k => ?_⟩, fun s h hcase => hcase.elim h.dv_of_busy h.dv_of_not_finalized⟩
  · rw [exec_rdDigest, readDigest_invalid i hdv]
  · rw [exec_rdHex, readHex_invalid k hdv]

end Sys2Proof.Machine
end

section
/-! PROOFS. The working variables, the window and t of an idle engine are never observed (10_state.md rules R21, R22, R31 and R45). -/

namespace Sys2Proof.Machine

/-- The state with other values in the elements no host can see. -/
def State.withHidden (s : State) (v : Working) (S : Vector Word 16) (t : Fin 65) : State :=
  { s with working := v, window := S, t := t }

section Hidden

variable (v : Working) (S : Vector Word 16) (t : Fin 65)

theorem hiddenEq_withHidden {s : State} (hq : s.Q = []) : HiddenEq s (s.withHidden v S t) := .inr ⟨hq, v, S, t, rfl⟩

theorem hiddenEqAnswer_rfl (a : Answer) : HiddenEqAnswer a a := by
  cases a with
  | next s => exact .inl rfl
  | fault f => rfl
  | refused r => rfl

theorem HiddenEq.acknowledge {s s' : State} (h : HiddenEq s s') : HiddenEq s.acknowledge s'.acknowledge := by
  obtain rfl | ⟨hq, v, S, t, rfl⟩ := h
  · exact .inl rfl
  · exact hiddenEq_withHidden v S t (s := s.acknowledge) hq

/-! ## Loading a block overwrites all three (R141) -/

theorem startJob_withHidden (s : State) (b : Bool) (hq : s.Q ≠ []) : (s.withHidden v S t).startJob b = s.startJob b := by
  obtain ⟨B, rest, hB⟩ := List.exists_cons_of_ne_nil hq
  rw [startJob_eq s b B rest hB, startJob_eq (s.withHidden v S t) b B rest hB]
  rfl

/-- With a job begun nothing hidden is left; without one nothing has been shown. -/
theorem hiddenEq_startIfDispatched (s : State) : HiddenEq (startIfDispatched s) (startIfDispatched (s.withHidden v S t)) := by
  by_cases hq : s.Q = []
  · have idle : startIfDispatched s = s := if_neg (by simp [State.busy_eq_false.mpr hq])
    have idle' : startIfDispatched (s.withHidden v S t) = s.withHidden v S t :=
      if_neg (by simp [State.busy_eq_false (s := s.withHidden v S t) |>.mpr hq])
    rw [idle, idle']
    exact hiddenEq_withHidden v S t hq
  · have begun : startIfDispatched s = s.startJob false := if_pos (State.busy_eq_true.mpr hq)
    have begun' : startIfDispatched (s.withHidden v S t) = (s.withHidden v S t).startJob false :=
      if_pos (State.busy_eq_true (s := s.withHidden v S t) |>.mpr hq)
    rw [begun, begun', startJob_withHidden v S t s false hq]
    exact .inl rfl

/-! ## Commands -/

theorem absorbByte_withHidden (s : State) (b : Byte) :
    absorbByte (s.withHidden v S t) b = (absorbByte s b).map fun s' => s'.withHidden v S t := by
  rw [absorbByte_ok, absorbByte_ok]
  by_cases hfull : s.buf.length = 63
  · simp [State.withHidden, hfull, Except.map]
  · simp [State.withHidden, hfull, Except.map]

theorem absorbBytes_withHidden (bs : List Byte) (s : State) :
    absorbBytes (s.withHidden v S t) bs = (absorbBytes s bs).map fun s' => s'.withHidden v S t := by
  induction bs generalizing s with
  | nil => rfl
  | cons b bs ih =>
    rw [absorbBytes, absorbBytes, absorbByte_withHidden]
    cases absorbByte s b with
    | ok s1 => exact ih s1
    | error f => rfl

theorem performAppend_withHidden (n : ByteCount) {s : State} (hq : s.Q = []) :
    ∃ s1 s1', performAppend n s = .ok s1 ∧ performAppend n (s.withHidden v S t) = .ok s1' ∧ HiddenEq s1 s1' := by
  by_cases hl : 2 ^ 61 ≤ s.msglen.toNat + n.toNat
  · refine ⟨_, _, performAppend_tooLarge n s hl, performAppend_tooLarge n (s.withHidden v S t) hl, ?_⟩
    have idle : (refuseTooLarge s).Q = [] := by simpa [refuseTooLarge] using hq
    rw [refuseTooLarge_eq (s.withHidden v S t)]
    rw [refuseTooLarge_eq] at idle ⊢
    exact .inr ⟨idle, v, S, t, rfl⟩
  · obtain ⟨s2, h2⟩ := absorbBytes_ok (appendBytes n s.dataIn) s
    have h2' := absorbBytes_withHidden v S t (appendBytes n s.dataIn) s
    rw [h2] at h2'
    have fits : ¬tooLarge n s = true := by rwa [tooLarge_iff]
    have fits' : ¬tooLarge n (s.withHidden v S t) = true := fits
    refine ⟨startIfDispatched s2, startIfDispatched (s2.withHidden v S t), ?_, ?_, hiddenEq_startIfDispatched v S t s2⟩
    · rw [performAppend, if_neg fits, h2]
    · have same : (s.withHidden v S t).dataIn = s.dataIn := rfl
      rw [performAppend, if_neg fits', same, h2']
      rfl

theorem perform_withHidden (c : Command) {s : State} (hq : s.Q = []) :
    ∃ s1 s1', perform c s = .ok s1 ∧ perform c (s.withHidden v S t) = .ok s1' ∧ HiddenEq s1 s1' := by
  cases c with
  | nop => exact ⟨_, _, rfl, rfl, hiddenEq_withHidden v S t hq⟩
  | init => exact ⟨_, _, rfl, rfl, .inr ⟨hq, v, S, t, rfl⟩⟩
  | append n => exact performAppend_withHidden v S t n hq
  | final =>
    obtain ⟨B, rest, hparse⟩ := parse_padTail s.buf s.msglen
    exact ⟨_, _, performFinal_eq s B rest hparse, performFinal_eq (s.withHidden v S t) B rest hparse, .inl rfl⟩
  | compress => exact ⟨_, _, performCompress_eq s, performCompress_eq (s.withHidden v S t), .inl rfl⟩

/-! ## Operations -/

theorem hiddenEq_errorAnswer (c : EngineError) {s : State} (hq : s.Q = []) :
    HiddenEqAnswer (errorAnswer c s) (errorAnswer c (s.withHidden v S t)) := by
  have raised : (s.withHidden v S t).raise c = (s.raise c).withHidden v S t := by cases c <;> rfl
  have idle : (s.raise c).Q = [] := by rw [State.raise_Q, hq]
  rw [errorAnswer, errorAnswer, raised]
  exact HiddenEq.acknowledge (hiddenEq_withHidden v S t idle)

theorem hiddenEq_writeCmd (d : Except CommandReject Command) {s : State} (hq : s.Q = []) :
    HiddenEqAnswer (writeCmd d s) (writeCmd d (s.withHidden v S t)) := by
  have hq' : (s.withHidden v S t).Q = [] := hq
  cases d with
  | error e =>
    rw [writeCmd_illegal e s hq, writeCmd_illegal e _ hq']
    exact hiddenEq_errorAnswer v S t .illegalCmd hq
  | ok c =>
    cases ha : allowed c s.phase with
    | false =>
      rw [writeCmd_refused c s hq ha, writeCmd_refused c (s.withHidden v S t) hq' ha]
      exact hiddenEq_errorAnswer v S t .sequence hq
    | true =>
      obtain ⟨s1, s1', hp, hp', heq⟩ := perform_withHidden v S t c hq
      rw [writeCmd_performed c s s1 hq ha hp, writeCmd_performed c (s.withHidden v S t) s1' hq' ha hp']
      exact heq.acknowledge

/-- A write stores alike whatever the hidden elements hold. -/
theorem hiddenEq_guardedWrite {f : State → State} {s : State} (hq : s.Q = []) (hf : HiddenEq (f s) (f (s.withHidden v S t))) :
    HiddenEqAnswer (guardedWrite f s) (guardedWrite f (s.withHidden v S t)) := by
  rw [guardedWrite_idle f s hq, guardedWrite_idle f (s.withHidden v S t) hq]
  exact hf.acknowledge

/-- No register shows them. -/
theorem readReg_withHidden (s : State) (r : Reg) : readReg (s.withHidden v S t) r = readReg s r := by cases r <;> rfl

theorem hiddenEq_exec_read (r : Reg) {s : State} (hq : s.Q = []) :
    HiddenEqAnswer (exec (readInstr r) s) (exec (readInstr r) (s.withHidden v S t)) := by
  rw [exec_readInstr_idle r hq, exec_readInstr_idle r (s := s.withHidden v S t) hq, readAnswer, readAnswer, readReg_withHidden]
  exact .inr ⟨hq, v, S, t, rfl⟩

theorem hiddenEq_exec (i : Instr) {s : State} (hq : s.Q = []) : HiddenEqAnswer (exec i s) (exec i (s.withHidden v S t)) := by
  have ignored : HiddenEqAnswer (ignoredWrite s) (ignoredWrite (s.withHidden v S t)) :=
    HiddenEq.acknowledge (hiddenEq_withHidden v S t hq)
  cases i with
  | nop => exact hiddenEq_writeCmd v S t (.ok .nop) hq
  | init => exact hiddenEq_writeCmd v S t (.ok .init) hq
  | append1 => exact hiddenEq_writeCmd v S t (.ok (.append .one)) hq
  | append2 => exact hiddenEq_writeCmd v S t (.ok (.append .two)) hq
  | append3 => exact hiddenEq_writeCmd v S t (.ok (.append .three)) hq
  | append4 => exact hiddenEq_writeCmd v S t (.ok (.append .four)) hq
  | final => exact hiddenEq_writeCmd v S t (.ok .final) hq
  | compress => exact hiddenEq_writeCmd v S t (.ok .compress) hq
  | wrCmd w => exact hiddenEq_writeCmd v S t (decodeCommand w) hq
  | wrDataIn w => exact hiddenEq_guardedWrite v S t hq (.inr ⟨hq, v, S, t, rfl⟩)
  | wrH j w => exact hiddenEq_guardedWrite v S t hq (.inr ⟨hq, v, S, t, rfl⟩)
  | wrM j w => exact hiddenEq_guardedWrite v S t hq (.inr ⟨hq, v, S, t, rfl⟩)
  | wrStatus w => exact ignored
  | wrMsglenLo w => exact ignored
  | wrMsglenHi w => exact ignored
  | wrDigest j w => exact ignored
  | wrHex k w => exact ignored
  | rdCmd => exact hiddenEq_exec_read v S t .cmd hq
  | rdStatus => exact hiddenEq_exec_read v S t .status hq
  | rdDataIn => exact hiddenEq_exec_read v S t .dataIn hq
  | rdMsglenLo => exact hiddenEq_exec_read v S t .msglenLo hq
  | rdMsglenHi => exact hiddenEq_exec_read v S t .msglenHi hq
  | rdH j => exact hiddenEq_exec_read v S t (.h j) hq
  | rdM j => exact hiddenEq_exec_read v S t (.m j) hq
  | rdDigest j => exact hiddenEq_exec_read v S t (.digest j) hq
  | rdHex k => exact hiddenEq_exec_read v S t (.hex k) hq

/-! ## Steps -/

theorem hiddenEq_engineStep {s : State} (hq : s.Q = []) : HiddenEq s.engineStep (s.withHidden v S t).engineStep := by
  rw [engineStep_idle s hq, engineStep_idle (s.withHidden v S t) hq]
  exact hiddenEq_withHidden v S t hq

/-- The decoder looks at BASE only, and a BusError, as a step answers it, at nothing but the pending events. -/
theorem hiddenEq_access (a : HostAccess) {s : State} (hq : s.Q = []) :
    HiddenEqAnswer (afterAccess s (hostAccess a s))
      (afterAccess (s.withHidden v S t) (hostAccess a (s.withHidden v S t))) := by
  have base : (s.withHidden v S t).basePage = s.basePage := rfl
  rw [hostAccess, hostAccess, base]
  cases decode s.basePage a with
  | error e =>
    cases e with
    | outsideWindow => exact rfl
    | busError r => exact .inr ⟨hq, v, S, t, rfl⟩
  | ok i =>
    have alike := hiddenEq_exec v S t i hq
    obtain ⟨s1, h1⟩ := exec_answers i s
    obtain ⟨s1', h1'⟩ := exec_answers i (s.withHidden v S t)
    rw [h1, h1'] at alike
    simpa only [h1, h1', afterAccess] using alike

theorem hiddenEq_nextEvent (e : Event) {s : State} (hq : s.Q = []) :
    HiddenEqAnswer (nextEvent e s) (nextEvent e (s.withHidden v S t)) := by
  cases e with
  | access a => exact hiddenEq_access v S t a hq
  | engine => exact hiddenEq_engineStep v S t hq
  | reset => exact .inl rfl
  | accessDuringReset a => exact rfl

theorem hiddenEq_step {s : State} (hq : s.Q = []) : HiddenEqAnswer (step s) (step (s.withHidden v S t)) := by
  have events : (s.withHidden v S t).pending = s.pending := rfl
  rw [step, step, runNextEvent, runNextEvent, events]
  cases s.pending with
  | nil => exact hiddenEq_engineStep v S t hq
  | cons e rest => exact hiddenEq_nextEvent v S t e (s := s.takeEvent rest) hq

end Hidden

/-- Settles O60: equal states answer alike, and an idle engine answers alike whatever it hides. -/
theorem hiddenStateIsNeverObserved : Obligations.HiddenStateIsNeverObserved := by
  rintro s s' (rfl | ⟨hq, v, S, t, rfl⟩)
  · exact hiddenEqAnswer_rfl (step s)
  · exact hiddenEq_step v S t hq

end Sys2Proof.Machine
end
